-- ==== Sys2Proof/Word.lean ====
section
/-! DEFINITION. The widths of the engine's values (spec 00_scope.md R9, 30_encoding.md R60, R69): every value is a
bit vector of a stated width, read as an unsigned integer, bit 0 the least significant. -/

namespace Sys2Proof

/-- A 32-bit unsigned value: the accumulator, `IMM32`, `DATA` (10_state.md R20). -/
abbrev Word := BitVec 32

/-- One data byte, 0 to 255 (00_scope.md R5, 30_encoding.md R63). -/
abbrev Byte := BitVec 8

/-- A command word, `cmd[35:0]` (30_encoding.md R60). -/
abbrev CmdWord := BitVec 36

/-- A response word, `rsp[32:0]` (30_encoding.md R69). -/
abbrev RspWord := BitVec 33

end Sys2Proof
end

