-- ==== Sys2Proof/Syntax.lean ====
section
/-! DEFINITION. The syntax of the engine: its three commands (30_encoding.md R66), the four classes of words that
spell no command (R67), the words' opcode map as rows, and the lines of the assembler notation (R72, R73). -/

namespace Sys2Proof

/-- The commands of the engine, one constructor per row of spec/opcode_table.json (30_encoding.md R66). -/
inductive Instr where
  /-- `LDACC imm32`, format W (40_accumulator_access.md R80). -/
  | ldacc (imm32 : Word)
  /-- `UPDB imm8`, format B (41_update.md R92). -/
  | updb (imm8 : Byte)
  /-- `RDACC`, format N (40_accumulator_access.md R81). -/
  | rdacc
deriving DecidableEq, Repr

/-- The four classes of illegal command words (30_encoding.md R67). The decoder names the class; the engine does not
report it (60_exceptions.md R131). -/
inductive IllegalClass where
  /-- `OP == 0x0`, any `ARG`. -/
  | reservedOpcodeZero
  /-- `OP` in `0x4 .. 0xF`, any `ARG`. -/
  | reservedOpcodeHigh
  /-- `OP == 0x2` and `cmd[31:8] != 0`. -/
  | updbReservedBits
  /-- `OP == 0x3` and `cmd[31:0] != 0`. -/
  | rdaccReservedBits
deriving DecidableEq, Repr

/-- One row of the opcode map: a word `w` spells the row's command exactly when `(w & mask) == pattern`
(30_encoding.md R66; the column `match` is called `pattern` here). -/
structure OpcodeRow where
  mnemonic : String
  pattern  : CmdWord
  mask     : CmdWord
deriving DecidableEq, Repr

/-- A byte operand as written in an assembler line: a numeral, or for `UPDB` a character standing for its code
(30_encoding.md R72). -/
inductive ByteOperand where
  | num (n : Nat)
  | chr (c : Char)
deriving DecidableEq, Repr

/-- One line of the assembler notation: the four lines of R72 and the pseudo-instructions of R73, operands as
written, so that an operand out of range can be written and is refused (WellFormed.lean). -/
inductive SourceLine where
  | ldacc (imm32 : Nat)
  | updb (imm8 : ByteOperand)
  | rdacc
  | dotWord (w36 : Nat)
  | init
  | update (bytes : List ByteOperand)
  | updateText (text : List Char)
  | final
  | save
  | restore (v : Nat)
deriving DecidableEq, Repr

end Sys2Proof
end

