-- ==== Sys2Proof/WellFormed.lean ====
section
/-! DEFINITION. Which terms are well formed. A command's operands have the widths of their encoding fields by type
(30_encoding.md R62, R63), so the range check of a command compares its operand with the range R72 gives; the lines of the
assembler notation carry operands as written, and there the checks refuse. -/

namespace Sys2Proof

/-- The operand of a command as a number, and the largest value R72 allows it; `RDACC` has none. -/
def Instr.operandRange : Instr → Option (Nat × Nat)
  | .ldacc imm32 => some (imm32.toNat, 0xFFFFFFFF)
  | .updb imm8   => some (imm8.toNat, 0xFF)
  | .rdacc       => none

/-- A command is well formed when its operand is in the range of R72. -/
def Instr.wellFormed (i : Instr) : Bool :=
  match i.operandRange with
  | some (v, top) => decide (v ≤ top)
  | none => true

/-- A byte operand is a numeral 0 to `0xFF`, or one ASCII character (30_encoding.md R72). -/
def ByteOperand.wellFormed : ByteOperand → Bool
  | .num n => decide (n ≤ 0xFF)
  | .chr c => decide (c.toNat < 0x80)

/-- An assembler line is well formed when every operand is in the range R72 gives it; a text has ASCII characters
only (R73). -/
def SourceLine.wellFormed : SourceLine → Bool
  | .ldacc n        => decide (n ≤ 0xFFFFFFFF)
  | .updb b         => b.wellFormed
  | .rdacc          => true
  | .dotWord n      => decide (n ≤ 0xFFFFFFFFF)
  | .init           => true
  | .update bs      => bs.all ByteOperand.wellFormed
  | .updateText cs  => cs.all fun c => decide (c.toNat < 0x80)
  | .final          => true
  | .save           => true
  | .restore n      => decide (n ≤ 0xFFFFFFFF)

end Sys2Proof
end

