-- ==== Sys2Proof/Decode.lean ====
section
/-! DEFINITION. Decoding, total on all 2^36 command words and rejecting by class (30_encoding.md R61 to R68), and the
encoder, written from the same formats. -/

namespace Sys2Proof

/-- `OP = cmd[35:32]` (30_encoding.md R61). -/
def cmdOp (w : CmdWord) : BitVec 4 := w.extractLsb' 32 4

/-- `ARG = cmd[31:0]`: `IMM32` of format W (R62), `ZERO32` of format N (R64). -/
def cmdArg (w : CmdWord) : Word := w.extractLsb' 0 32

/-- `ZERO24 = cmd[31:8]` of format B (R63). -/
def cmdZero24 (w : CmdWord) : BitVec 24 := w.extractLsb' 8 24

/-- `IMM8 = cmd[7:0]` of format B (R63). -/
def cmdImm8 (w : CmdWord) : Byte := w.extractLsb' 0 8

/-- The decoder: the conditions of the step function (30_encoding.md R68), and for a word that spells no command its
class (R67). -/
def decode (w : CmdWord) : Except IllegalClass Instr :=
  if cmdOp w = 0x1#4 then .ok (.ldacc (cmdArg w))
  else if cmdOp w = 0x2#4 then
    if cmdZero24 w = 0#24 then .ok (.updb (cmdImm8 w)) else .error .updbReservedBits
  else if cmdOp w = 0x3#4 then
    if cmdArg w = 0#32 then .ok .rdacc else .error .rdaccReservedBits
  else if cmdOp w = 0x0#4 then .error .reservedOpcodeZero
  else .error .reservedOpcodeHigh

/-- A word is legal when it spells a command (30_encoding.md R66, R67). -/
def isLegal (w : CmdWord) : Bool :=
  match decode w with
  | .ok _ => true
  | .error _ => false

/-- The encoder: formats W, B and N with the must-be-zero fields zero (30_encoding.md R62 to R64, R72). -/
def encode : Instr → CmdWord
  | .ldacc imm32 => 0x1#4 ++ imm32
  | .updb imm8   => 0x2#4 ++ 0#24 ++ imm8
  | .rdacc       => 0x3#4 ++ 0#32

/-- The row of the opcode map for each command, constants as R66 writes them. -/
def Instr.row : Instr → OpcodeRow
  | .ldacc _ => ⟨"LDACC", 0x100000000#36, 0xF00000000#36⟩
  | .updb _  => ⟨"UPDB", 0x200000000#36, 0xFFFFFFF00#36⟩
  | .rdacc   => ⟨"RDACC", 0x300000000#36, 0xFFFFFFFFF#36⟩

/-- The complete opcode map, three rows (30_encoding.md R66). -/
def opcodeMap : List OpcodeRow :=
  [(Instr.ldacc 0).row, (Instr.updb 0).row, Instr.rdacc.row]

/-- A word matches a row (30_encoding.md R66). -/
def OpcodeRow.fits (r : OpcodeRow) (w : CmdWord) : Bool := w &&& r.mask == r.pattern

/-- The bits of an instruction given as a number of `nbits` bits, put on the 36 wires of the command port. -/
def tableWord (nbits w : Nat) : CmdWord := BitVec.ofNat 36 (w % 2 ^ nbits)

/-- What the decoder reads from an instruction whose bits are `w`, bit 0 least significant. `nbits` counts whole
bytes (40 for a 36-bit word); a number with a bit above 35 is no command word (30_encoding.md R60) and is refused. DESIGN CHOICE: log entry 7, safe. -/
def decodeTableWord (nbits w : Nat) : Option Instr :=
  if w % 2 ^ nbits < 2 ^ 36 then
    match decode (tableWord nbits w) with
    | .ok i => some i
    | .error _ => none
  else none

end Sys2Proof
end

