-- ==== Sys2Proof/Machine/Flags.lean ====
section
/-! DEFINITION. The engine has no flags, condition codes or status registers (10_state.md R24). The only report is the
`ERR` bit of a response, which is not stored; this file holds the response word and its two fields (30_encoding.md R69). -/

namespace Sys2Proof.Machine

/-- The response word `{err, data}`: `ERR = rsp[32]`, `DATA = rsp[31:0]` (30_encoding.md R69, 00_scope.md R11). -/
def rspWord (err : BitVec 1) (data : Word) : RspWord := err ++ data

/-- `ERR = rsp[32]`: 1 when the command word was illegal and nothing was executed (30_encoding.md R69). -/
def rspErr (r : RspWord) : BitVec 1 := r.extractLsb' 32 1

/-- `DATA = rsp[31:0]`: the value of `ACC` after the command, never complemented (30_encoding.md R69). -/
def rspData (r : RspWord) : Word := r.extractLsb' 0 32

end Sys2Proof.Machine
end

