-- ==== Sys2Proof/Machine/Operands.lean ====
section
/-! DEFINITION. Operand assembly (30_encoding.md R65): there are two operands, and no scaling, shifting or sign
extension. -/

namespace Sys2Proof.Machine

/-- `IMM32` is used as it stands: bit `i` of the field is bit `i` of the value written to `ACC` (30_encoding.md R65). -/
def operandImm32 (imm32 : Word) : Word := imm32

/-- `zext_32(b) = {0x000000, b}`: the data byte with 24 zero bits above it (00_scope.md R10, 30_encoding.md R65); a
byte is unsigned (20_memory.md R42). -/
def zext32 (b : Byte) : Word := 0#24 ++ b

end Sys2Proof.Machine
end

