-- ==== Sys2Proof/Config.lean ====
section
/-! DEFINITION. What the spec leaves OPEN (00_scope.md R7, 92_eei_decisions.md "Parameters left OPEN"): uninterpreted
constants with no body, so that nothing can evaluate them and every claim holds for every value of them. The constants the
spec FIXES (R5: the polynomial, the widths, eight rounds) are not parameters and stand where they are used. `IMPL` has
no field: "no rule of this spec reads `IMPL`, and a model has no such field" (R6). -/

namespace Sys2Proof

/-- `ACC_RESET` at the first reset of engine number `unit` (10_state.md R29, 93_implementation_defined.md U4): any 32-bit
value. DESIGN CHOICE: log entry 1, unsafe only across machines. -/
opaque Config.accPowerOn (unit : Nat) : Word

/-- `ACC_RESET` at a later reset event: "one draw at the reset event" (93_implementation_defined.md U4). `resetNo` counts the
engine's reset events. It may depend on what the register held, since an implementation may "not reset the flops at
all" (10_state.md R29). DESIGN CHOICE: log entry 1, unsafe only across machines. -/
opaque Config.accReset (unit resetNo : Nat) (held : Word) : Word

/-- The `rsp` wires in a cycle in which `rsp_valid` is 0: unspecified (10_state.md R30, U6). DESIGN CHOICE: log entry 8, safe. -/
opaque Config.rspWhileInvalid (unit cycleNo : Nat) : RspWord

/-- A bound on `T_CMD` that does not depend on the operand or on `ACC` (70_reset_and_hazards.md R156). DESIGN CHOICE: log entry 8, safe. -/
opaque Config.latencyBound (unit : Nat) : Nat

/-- `T_CMD` before the bound is applied: may differ between commands and between implementations (R157). DESIGN CHOICE: log entry 8, safe. -/
opaque Config.latencyWish (unit cycleNo : Nat) (cmd : CmdWord) (acc : Word) : Nat

/-- A bound on the cycles after a reset or an answer until the engine is ready (10_state.md R30, R156). DESIGN CHOICE: log entry 8, safe. -/
opaque Config.readyBound (unit : Nat) : Nat

/-- The cycles after a reset or an answer until the engine must be ready, before the bound is applied. DESIGN CHOICE: log entry 8, safe. -/
opaque Config.readyWish (unit cycleNo : Nat) : Nat

/-- Whether `cmd_ready` is already 1 in a cycle in which it need not be (U6: any value). DESIGN CHOICE: log entry 8, safe. -/
opaque Config.readyEarly (unit cycleNo : Nat) : Bool

end Sys2Proof
end

