-- ==== Sys2Proof/Machine/State.lean ====
section
/-! DEFINITION. The state of the engine (10_state.md R20: one register, `ACC`) with the host's list of actions and the
responses of the run, the reasons a step could stop, and the state after reset. -/

namespace Sys2Proof.Machine

/-- What the host does next, at the transaction level (00_scope.md section 9: it chooses the next command word, may stop
sending, and may assert reset at any time). -/
inductive HostEvent where
  /-- A command word is accepted: any of the 2^36 words (10_state.md R28). -/
  | command (w : CmdWord)
  /-- Time passes and no command is accepted (10_state.md R22, last row). -/
  | idle
  /-- Reset is asserted and released (70_reset_and_hazards.md R150). Power removal is followed by one (R143). -/
  | reset
deriving DecidableEq, Repr

/-- The machine never stops with a fault: no legal command can fail (60_exceptions.md R130), and the one exception,
`IllegalCommand`, is a response after which the engine goes on (R131, R135). So there is no constructor, no one raises
one, and that is safe: nothing is left out. -/
inductive Fault where
deriving DecidableEq, Repr

/-- Why a step has no meaning. -/
inductive Refusal where
  /-- An instruction the model does not cover, by its mnemonic: raised only by a refused arm of `exec`; there is none.
  Safe. -/
  | notModelled (mnemonic : String)
deriving DecidableEq, Repr

/-- The engine and its host. `acc` is the whole architectural state (10_state.md R20, R26). The other fields are the
model's own: `inbox` and `responses` are the host's side of the two ports, and `unitNo` and `resetNo` only name the
free values of Config. -/
structure State where
  /-- `ACC` (10_state.md R20). -/
  acc : Word
  /-- What the host does next, first element first (00_scope.md section 9; DESIGN CHOICE: log entry 2, safe). -/
  inbox : List HostEvent
  /-- The responses delivered since the last reset, oldest first (30_encoding.md R69; DESIGN CHOICE: log entry 3, safe). -/
  responses : List RspWord
  /-- Which engine instance this is; no command reads it (60_exceptions.md R141; DESIGN CHOICE: log entry 4, safe). -/
  unitNo : Nat
  /-- How many reset events the engine has had since its first reset; no command reads it (DESIGN CHOICE: log entry
  4, safe). -/
  resetNo : Nat
deriving DecidableEq, Repr

/-- Engine number `unit` right after its first reset: `ACC` holds `ACC_RESET` (10_state.md R29), no command is in
progress (R30), the host has sent nothing yet (70_reset_and_hazards.md R153). DESIGN CHOICE: log entries 1 to 4. -/
def State.resetOf (unit : Nat) : State where
  acc := Config.accPowerOn unit
  inbox := []
  responses := []
  unitNo := unit
  resetNo := 0

/-- The machine right after reset (10_state.md R29, R30). -/
def State.reset : State := State.resetOf 0

end Sys2Proof.Machine
end

