-- ==== Sys2Proof/Machine/Ops.lean ====
section
/-! DEFINITION. The named operations every meaning is built from: reading and writing the one register (10_state.md R22),
responding (00_scope.md R11), taking the one exception (60_exceptions.md R131) and reset (70_reset_and_hazards.md R150).
The engine has no memory (20_memory.md R40), so there is no memory operation; and no return from an exception, since
"every exception is complete when its response has been delivered" (60_exceptions.md R136). -/

namespace Sys2Proof.Machine

/-- `ACC` read as a value: the register's current content (00_scope.md R11). -/
def State.readAcc (s : State) : Word := s.acc

/-- `ACC <- v` (00_scope.md R11); every value is legal (10_state.md R21). -/
def State.writeAcc (s : State) (v : Word) : State := { s with acc := v }

/-- `respond(err, data)`: the response word is delivered after all earlier ones (00_scope.md R11, 20_memory.md R49). -/
def State.respond (s : State) (err : BitVec 1) (data : Word) : State :=
  { s with responses := s.responses ++ [rspWord err data] }

/-- `raise IllegalCommand`: `ACC` is not written, `respond(1, ACC)`, nothing else is recorded, and the engine goes on
(60_exceptions.md R131, R135). -/
def State.raiseIllegalCommand (s : State) : State := s.respond 1#1 s.readAcc

/-- The reset event: `ACC` takes `ACC_RESET`, and the run's responses end (70_reset_and_hazards.md R150; "a run is a reset
... followed by a finite list of command words", 00_scope.md section 9). DESIGN CHOICE: log entries 1, 3. -/
def State.resetEvent (s : State) : State :=
  { s with
    acc := Config.accReset s.unitNo (s.resetNo + 1) s.acc
    responses := []
    resetNo := s.resetNo + 1 }

/-- What the host does next is replaced (10_state.md R23: the list is the host's). -/
def State.withInbox (s : State) (evs : List HostEvent) : State := { s with inbox := evs }

end Sys2Proof.Machine
end

