-- ==== Sys2Proof/Machine/AccumulatorAccess.lean ====
section
/-! DEFINITION. The accumulator access family: `LDACC` and `RDACC` (40_accumulator_access.md). -/

namespace Sys2Proof.Machine

/-- `LDACC imm32`: `ACC <- imm32`, `respond(0, imm32)`; the command cannot fail (40_accumulator_access.md R80). -/
def execLdacc (imm32 : Word) (s : State) : Host.Outcome State Fault Refusal :=
  .next ((s.writeAcc (operandImm32 imm32)).respond 0#1 (operandImm32 imm32))

/-- `RDACC`: `respond(0, ACC)`; `ACC` is not written and not complemented (40_accumulator_access.md R81). -/
def execRdacc (s : State) : Host.Outcome State Fault Refusal :=
  .next (s.respond 0#1 s.readAcc)

end Sys2Proof.Machine
end

