-- ==== Sys2Proof/Machine/Update.lean ====
section
/-! DEFINITION. The update family: `UPDB` (41_update.md R92). -/

namespace Sys2Proof.Machine

/-- `UPDB imm8`: `ACC <- crc_step(ACC, imm8)`, and the response carries the new accumulator (41_update.md R92). -/
def execUpdb (imm8 : Byte) (s : State) : Host.Outcome State Fault Refusal :=
  .next ((s.writeAcc (crcStep s.readAcc imm8)).respond 0#1 (crcStep s.readAcc imm8))

end Sys2Proof.Machine
end

