-- ==== Sys2Proof/Machine/Dispatch.lean ====
section
/-! DEFINITION. One arm per command: the call of its meaning (30_encoding.md R66, R68). -/

namespace Sys2Proof.Machine

def exec (i : Instr) (s : State) : Host.Outcome State Fault Refusal :=
  match i with
  | .ldacc imm32 => Sys2Proof.Machine.execLdacc imm32 s
  | .updb imm8 => Sys2Proof.Machine.execUpdb imm8 s
  | .rdacc => Sys2Proof.Machine.execRdacc s

end Sys2Proof.Machine
end

