-- ==== Sys2Proof/Machine/Command.lean ====
section
/-! DEFINITION. One accepted command word, and one event of the host, run to completion. -/

namespace Sys2Proof.Machine

/-- An accepted command word is decoded before anything is touched (60_exceptions.md R134): a legal word runs its command,
any other takes `IllegalCommand` (30_encoding.md R67, R68). -/
def runCommand (w : CmdWord) (s : State) : Host.Outcome State Fault Refusal :=
  match decode w with
  | .ok i => exec i s
  | .error _ => .next s.raiseIllegalCommand

/-- One event of the host: a command, the passage of time, which changes nothing (10_state.md R22), or a reset, which
happens "between commands or in place of the completion of one" (70_reset_and_hazards.md R150). -/
def runEvent (e : HostEvent) (s : State) : Host.Outcome State Fault Refusal :=
  match e with
  | .command w => runCommand w s
  | .idle => .next s
  | .reset => .next s.resetEvent

/-- The host offers the word of a table row next. -/
def State.offerTableWord (s : State) (nbits w : Nat) : State :=
  s.withInbox (.command (tableWord nbits w) :: s.inbox)

end Sys2Proof.Machine
end

