-- ==== Sys2Proof/Machine/Step.lean ====
section
/-! DEFINITION. One step: the engine answers the host's next event. There is no program counter and no fetch: the host
sequences the commands (10_state.md R23, 20_memory.md R51). -/

namespace Sys2Proof.Machine

/-- One step of engine and host: the host's next event is taken from its list and run to completion before the next
(20_memory.md R49). When the host does nothing more, the engine is idle and holds `ACC` (60_exceptions.md R143).
DESIGN CHOICE: log entries 2, 6. -/
def step (s : State) : Host.Outcome State Fault Refusal :=
  match s.inbox with
  | [] => .next s
  | e :: rest => runEvent e (s.withInbox rest)

/-- `s` with one instruction's word as the next command the host sends, before all it had still to send. -/
def State.withFetchWord (s : State) (nbits w : Nat) : State := s.offerTableWord nbits w

end Sys2Proof.Machine
end

