-- ==== Sys2Proof/Machine/Run.lean ====
section
/-! DEFINITION. Several steps, and a list of host events or command words run from a state (00_scope.md section 9: a run
is a start value of `ACC` followed by a finite list of command words). -/

namespace Sys2Proof.Machine

/-- `n` steps, stopping at the first fault or refusal. -/
def stepN : Nat → State → Host.Outcome State Fault Refusal
  | 0, s => .next s
  | n + 1, s =>
    match step s with
    | .next t => stepN n t
    | .fault r => .fault r
    | .refused r => .refused r

/-- The host does `evs` next, before all it had still to do, and the engine answers every one of them. -/
def runEvents (evs : List HostEvent) (s : State) : Host.Outcome State Fault Refusal :=
  stepN evs.length (s.withInbox (evs ++ s.inbox))

/-- The host sends the command words `cs`, one after the other. -/
def runCommands (cs : List CmdWord) (s : State) : Host.Outcome State Fault Refusal :=
  runEvents (cs.map .command) s

end Sys2Proof.Machine
end

