-- ==== Sys2Proof/Machine/HostConvention.lean ====
section
/-! DEFINITION. The host's side (42_host_convention.md): seed, finalisation and the protocols, as lists of command words
and as a host that reads responses. Nothing here adds a command or state to the engine. -/

namespace Sys2Proof.Machine

/-- The conventional seed, `0xFFFFFFFF` (42_host_convention.md R120). -/
def seed : Word := 0xFFFFFFFF#32

/-- Finalisation: the host complements the `DATA` it read (42_host_convention.md R121). -/
def finalise (data : Word) : Word := ~~~data

/-- `crc32(S) = ~crc_update(0xFFFFFFFF, S)` (42_host_convention.md R122). -/
def crc32 (bytes : List Byte) : Word := finalise (crcUpdate seed bytes)

/-- `INIT` (30_encoding.md R73). -/
def initCmds : List CmdWord := [encode (.ldacc seed)]

/-- `UPDATE b0, ..., bn-1`: one `UPDB` per byte, in order; for n = 0 no command at all (30_encoding.md R73). -/
def updateCmds (bytes : List Byte) : List CmdWord := bytes.map fun b => encode (.updb b)

/-- `FINAL` and `SAVE` send one `RDACC` (30_encoding.md R73). -/
def readCmds : List CmdWord := [encode .rdacc]

/-- `RESTORE v` (30_encoding.md R73). -/
def restoreCmds (v : Word) : List CmdWord := [encode (.ldacc v)]

/-- The bytes of the `UPDB` commands of a list of host events, in order (20_memory.md R41: the sequence is the list of `IMM8` fields in
acceptance order). -/
def bytesSent : List HostEvent → List Byte
  | [] => []
  | .command w :: es =>
    match decode w with
    | .ok (.updb b) => b :: bytesSent es
    | _ => bytesSent es
  | _ :: es => bytesSent es

/-- The one-shot protocol: `INIT`; `UPDATE S`; `FINAL` (42_host_convention.md R123). -/
def oneShotCmds (bytes : List Byte) : List CmdWord := initCmds ++ updateCmds bytes ++ readCmds

/-- The streaming protocol: `INIT` once, the `UPDATE` of each chunk, `FINAL` once (42_host_convention.md R124). -/
def streamCmds (chunks : List (List Byte)) : List CmdWord :=
  initCmds ++ (chunks.map updateCmds).flatten ++ readCmds

/-- Resuming from a finalised value `c`: `LDACC ~c`; `UPDATE S2`; `FINAL` (42_host_convention.md R124). -/
def resumeCmds (c : Word) (bytes : List Byte) : List CmdWord :=
  restoreCmds (finalise c) ++ updateCmds bytes ++ readCmds

/-- The `DATA` of the last response the host has captured; none if it has captured none. -/
def State.lastData (s : State) : Option Word := s.responses.getLast?.map rspData

/-- The two accumulators a host keeps for two streams on one engine (42_host_convention.md R125). -/
structure SavedStreams where
  vA : Word
  vB : Word
deriving DecidableEq, Repr

/-- One turn of the host for stream A (`true`) or B (`false`): `RESTORE` the stream's value, `UPDATE` its next bytes,
`SAVE`: keep the `DATA` of the last response (42_host_convention.md R125). -/
def hostTurn (toA : Bool) (bytes : List Byte) (v : SavedStreams) (s : State) :
    Host.Outcome (SavedStreams × State) Fault Refusal :=
  match runCommands (restoreCmds (if toA then v.vA else v.vB) ++ updateCmds bytes ++ readCmds) s with
  | .next t =>
    match t.lastData with
    | some d => .next (if toA then { v with vA := d } else { v with vB := d }, t)
    | none => .next (v, t)
  | .fault r => .fault r
  | .refused r => .refused r

/-- The host alternates between the two streams in any order of turns (42_host_convention.md R125). -/
def hostTurns : List (Bool × List Byte) → SavedStreams → State → Host.Outcome (SavedStreams × State) Fault Refusal
  | [], v, s => .next (v, s)
  | (toA, bytes) :: rest, v, s =>
    match hostTurn toA bytes v s with
    | .next (v', t) => hostTurns rest v' t
    | .fault r => .fault r
    | .refused r => .refused r

/-- The bytes a list of turns gives to one of the two streams, in order. -/
def bytesOf (toA : Bool) (turns : List (Bool × List Byte)) : List Byte :=
  (turns.filter fun t => t.1 == toA).flatMap fun t => t.2

end Sys2Proof.Machine
end

