-- ==== Sys2Proof/Machine/Assembler.lean ====
section
/-! DEFINITION. The notation for command lists (30_encoding.md R72, R73): what each line assembles to, reading a line from
its characters, and disassembly (R74). Text is a list of characters. It is the host's notation: the engine never sees
anything but the words. What R72 does not fix is a DESIGN CHOICE: log entry 10. -/

namespace Sys2Proof.Machine

/-- A character's code as a byte; the codes of well-formed operands are below `0x80` (30_encoding.md R72). -/
def charByte (c : Char) : Byte := BitVec.ofNat 8 c.toNat

/-- The byte an operand stands for (30_encoding.md R72). -/
def operandByte : ByteOperand → Byte
  | .num n => BitVec.ofNat 8 n
  | .chr c => charByte c

/-- The command words of a line whose operands are in range (30_encoding.md R72, R73). -/
def expandLine : SourceLine → List CmdWord
  | .ldacc n       => [encode (.ldacc (BitVec.ofNat 32 n))]
  | .updb b        => [encode (.updb (operandByte b))]
  | .rdacc         => [encode .rdacc]
  | .dotWord n     => [BitVec.ofNat 36 n]
  | .init          => initCmds
  | .update bs     => updateCmds (bs.map operandByte)
  | .updateText cs => updateCmds (cs.map charByte)
  | .final         => readCmds
  | .save          => readCmds
  | .restore n     => restoreCmds (BitVec.ofNat 32 n)

/-- The assembler: "an operand out of range is an error of the assembler, not a command" (30_encoding.md R72). -/
def assembleLine (l : SourceLine) : Option (List CmdWord) :=
  if l.wellFormed then some (expandLine l) else none

/-- A list of lines, one after the other; an error in one is an error of all. -/
def assemble : List SourceLine → Option (List CmdWord)
  | [] => some []
  | l :: ls =>
    match assembleLine l, assemble ls with
    | some ws, some rest => some (ws ++ rest)
    | _, _ => none

/-- Disassembly, total on all 2^36 words: a word that spells no command becomes `.word` (30_encoding.md R74). -/
def disassemble (w : CmdWord) : SourceLine :=
  match decode w with
  | .ok (.ldacc v) => .ldacc v.toNat
  | .ok (.updb b)  => .updb (.num b.toNat)
  | .ok .rdacc     => .rdacc
  | .error _       => .dotWord w.toNat

/-- The character a value below 16 prints as: the ASCII code of `0` plus the value, or for ten and above that of an upper-case
letter from `A` on. The spec prints hexadecimal digits (30_encoding.md R74) and does not state their case: upper case is a
DESIGN CHOICE, log entry 10. -/
def hexDigit (n : Nat) : Char := Char.ofNat (if n < 10 then 0x30 + n else 0x41 + (n - 10))

/-- A number as `width` hexadecimal digits, most significant first. -/
def hexDigits : Nat → Nat → List Char
  | 0, _ => []
  | k + 1, n => hexDigits k (n / 16) ++ [hexDigit (n % 16)]

/-- A hexadecimal numeral with its `0x` (00_scope.md R9). -/
def hexNumeral (width n : Nat) : List Char := ['0', 'x'] ++ hexDigits width n

/-- The mnemonics as characters. -/
def nameLdacc : List Char := ['L', 'D', 'A', 'C', 'C']
def nameUpdb : List Char := ['U', 'P', 'D', 'B']
def nameRdacc : List Char := ['R', 'D', 'A', 'C', 'C']
def nameWord : List Char := ['.', 'w', 'o', 'r', 'd']
def nameInit : List Char := ['I', 'N', 'I', 'T']
def nameUpdate : List Char := ['U', 'P', 'D', 'A', 'T', 'E']
def nameFinal : List Char := ['F', 'I', 'N', 'A', 'L']
def nameSave : List Char := ['S', 'A', 'V', 'E']
def nameRestore : List Char := ['R', 'E', 'S', 'T', 'O', 'R', 'E']

/-- The printed form of a word: `LDACC` with eight digits, `UPDB` with two, any other word as `.word` with nine
(30_encoding.md R74). One blank stands between mnemonic and operand, and the letters among the digits are upper case (DESIGN
CHOICE: log entry 10). -/
def printWord (w : CmdWord) : List Char :=
  match decode w with
  | .ok (.ldacc v) => nameLdacc ++ [' '] ++ hexNumeral 8 v.toNat
  | .ok (.updb b)  => nameUpdb ++ [' '] ++ hexNumeral 2 b.toNat
  | .ok .rdacc     => nameRdacc
  | .error _       => nameWord ++ [' '] ++ hexNumeral 9 w.toNat

/-- Blank characters between the parts of a line. -/
def isBlank (c : Char) : Bool := c == ' ' || c == '\t'

def skipBlanks (cs : List Char) : List Char := cs.dropWhile isBlank

/-- Nothing but blanks and a comment is left: `#` starts a comment that runs to the end of the line (30_encoding.md R72). -/
def lineEnds (cs : List Char) : Bool :=
  match skipBlanks cs with
  | [] => true
  | c :: _ => c == '#'

/-- The value of a digit in any base up to sixteen: the value that prints as that character, a lower-case letter being read
as the upper-case one (DESIGN CHOICE: log entry 10). -/
def digitValue (c : Char) : Option Nat := (List.range 16).find? fun n => hexDigit n == c.toUpper

/-- Digits in a base, continuing from a value. -/
def digitsFrom (base acc : Nat) : List Char → Option Nat
  | [] => some acc
  | c :: cs =>
    match digitValue c with
    | some d => if d < base then digitsFrom base (acc * base + d) cs else none
    | none => none

/-- At least one digit of a base. -/
def digits (base : Nat) (cs : List Char) : Option Nat :=
  match cs with
  | [] => none
  | _ :: _ => digitsFrom base 0 cs

/-- A numeral: hexadecimal with `0x`, binary with `0b`, otherwise decimal (00_scope.md R9). -/
def numeral (cs : List Char) : Option Nat :=
  match cs with
  | '0' :: 'x' :: ds => digits 16 ds
  | '0' :: 'b' :: ds => digits 2 ds
  | ds => digits 10 ds

/-- The characters a numeral is made of. -/
def isNumeralChar (c : Char) : Bool := c.isAlphanum

/-- A numeral at the start of the text, and what follows it. -/
def readNumber (cs : List Char) : Option (Nat × List Char) :=
  let t := skipBlanks cs
  (numeral (t.takeWhile isNumeralChar)).map fun n => (n, t.dropWhile isNumeralChar)

/-- A byte operand at the start of the text: a single character in single quotes, or a numeral (30_encoding.md R72). -/
def readByte (cs : List Char) : Option (ByteOperand × List Char) :=
  match skipBlanks cs with
  | '\'' :: c :: '\'' :: rest => some (.chr c, rest)
  | t => (readNumber t).map fun (n, rest) => (.num n, rest)

/-- Byte operands separated by commas, at most `fuel` of them, up to the end of the line (30_encoding.md R73). -/
def readBytes : Nat → List Char → Option (List ByteOperand)
  | 0, _ => none
  | fuel + 1, cs =>
    match readByte cs with
    | none => none
    | some (b, rest) =>
      if lineEnds rest then some [b]
      else match skipBlanks rest with
        | ',' :: more => (readBytes fuel more).map (b :: ·)
        | _ => none

/-- The operand of `UPDATE`: a text in double quotes, or any number of bytes, none included (30_encoding.md R73). -/
def readUpdate (cs : List Char) : Option SourceLine :=
  match skipBlanks cs with
  | '"' :: t =>
    match t.dropWhile (· != '"') with
    | _ :: rest => if lineEnds rest then some (.updateText (t.takeWhile (· != '"'))) else none
    | [] => none
  | t => if lineEnds t then some (.update []) else (readBytes (t.length + 1) t).map .update

/-- A line that is one number after its mnemonic. -/
def readNumberLine (mk : Nat → SourceLine) (cs : List Char) : Option SourceLine :=
  match readNumber cs with
  | some (n, rest) => if lineEnds rest then some (mk n) else none
  | none => none

/-- A line that is its mnemonic alone. -/
def readBareLine (l : SourceLine) (cs : List Char) : Option SourceLine :=
  if lineEnds cs then some l else none

/-- The operand part of a line, by its mnemonic, "in upper case followed by at most one operand" (30_encoding.md R72). -/
def readOperand (name cs : List Char) : Option SourceLine :=
  if name = nameLdacc then readNumberLine .ldacc cs
  else if name = nameUpdb then
    match readByte cs with
    | some (b, rest) => if lineEnds rest then some (.updb b) else none
    | none => none
  else if name = nameRdacc then readBareLine .rdacc cs
  else if name = nameWord then readNumberLine .dotWord cs
  else if name = nameInit then readBareLine .init cs
  else if name = nameUpdate then readUpdate cs
  else if name = nameFinal then readBareLine .final cs
  else if name = nameSave then readBareLine .save cs
  else if name = nameRestore then readNumberLine .restore cs
  else none

/-- One line of text: `none` for a line the notation does not have, `some none` for one without a command (blank, or only
a comment). -/
def readLine (cs : List Char) : Option (Option SourceLine) :=
  let t := skipBlanks cs
  if lineEnds t then some none
  else
    let inName := fun c => !isBlank c && c != '#'
    (readOperand (t.takeWhile inName) (t.dropWhile inName)).map some

end Sys2Proof.Machine
end

