-- ==== Sys2Proof/Machine/Platform.lean ====
section
/-! DEFINITION. A platform of `N_ENGINES` instances that share nothing (60_exceptions.md R141, 20_memory.md R52, D24): each is
its own copy of the machine. One step at a time, in any order: DEDUCED, log entry 11. -/

namespace Sys2Proof.Machine

/-- The engine instances of a platform. -/
abbrev Platform := List State

/-- `n` engines right after reset; they "start independently at reset" (60_exceptions.md R141). -/
def Platform.reset (n : Nat) : Platform := (List.range n).map State.resetOf

/-- Engine `k` takes one step; every other engine is left as it is. With no engine `k`, nothing happens. -/
def Platform.stepAt (k : Nat) (p : Platform) : Host.Outcome Platform Fault Refusal :=
  match p[k]? with
  | none => .next p
  | some s =>
    match step s with
    | .next t => .next (p.set k t)
    | .fault r => .fault r
    | .refused r => .refused r

/-- The engines take steps in the order of `ks`. -/
def Platform.run : List Nat → Platform → Host.Outcome Platform Fault Refusal
  | [], p => .next p
  | k :: ks, p =>
    match Platform.stepAt k p with
    | .next q => Platform.run ks q
    | .fault r => .fault r
    | .refused r => .refused r

end Sys2Proof.Machine
end

