-- ==== Sys2Proof/Machine/Reference.lean ====
section
/-! DEFINITION. The spec's own total function `step : (ACC, cmd) -> (ACC', rsp)`, line by line (00_scope.md R8,
30_encoding.md R68), and its recurrence over a list of accepted command words (20_memory.md R49). The machine of Step.lean
is a different text (decode, then a meaning per command); statements compare the two. -/

namespace Sys2Proof.Machine

/-- `step(ACC, cmd)` as 30_encoding.md R68 writes it. -/
def refStep (acc : Word) (cmd : CmdWord) : Word × RspWord :=
  if cmdOp cmd = 0x1#4 then (cmdArg cmd, rspWord 0#1 (cmdArg cmd))
  else if cmdOp cmd = 0x2#4 ∧ cmdZero24 cmd = 0#24 then
    (crcStep acc (cmdImm8 cmd), rspWord 0#1 (crcStep acc (cmdImm8 cmd)))
  else if cmdOp cmd = 0x3#4 ∧ cmdArg cmd = 0#32 then (acc, rspWord 0#1 acc)
  else (acc, rspWord 1#1 acc)

/-- `(A1, r1) = step(A0, c1)`, `(A2, r2) = step(A1, c2)`, and so on: the last accumulator and the responses in order
(20_memory.md R49). -/
def refRun (acc : Word) : List CmdWord → Word × List RspWord
  | [] => (acc, [])
  | c :: cs => ((refRun (refStep acc c).1 cs).1, (refStep acc c).2 :: (refRun (refStep acc c).1 cs).2)

end Sys2Proof.Machine
end

