-- ==== Sys2Proof/Machine/Ports.lean ====
section
/-! DEFINITION. The port level: the engine's wires, one clock cycle at a time (10_state.md R27, R28, R30; 70_reset_and_hazards.md
R150, R151, R156). Every cycle is exactly one event of the transaction level: a reset, a command that is answered in this
cycle, or nothing. What the spec leaves open here (`T_CMD`, the timing of `cmd_ready`, `rsp` while `rsp_valid` is 0) is a free
value of Config. DEDUCED: log entry 5, safe; DESIGN CHOICE: log entries 8, 9, 13, safe. -/

namespace Sys2Proof.Machine

/-- The inputs of one clock cycle (10_state.md R27). -/
structure PortIn where
  rst : Bool
  cmdValid : Bool
  cmd : CmdWord
deriving DecidableEq, Repr

/-- The outputs of one clock cycle (10_state.md R27). -/
structure PortOut where
  cmdReady : Bool
  rspValid : Bool
  rsp : RspWord
deriving DecidableEq, Repr

/-- A command between its acceptance and its response (10_state.md R28): its word, and how many cycles will pass before
its response cycle. -/
structure InProgress where
  word : CmdWord
  left : Nat
deriving DecidableEq, Repr

/-- The engine as the clock sees it. At most one command is in progress (10_state.md R28). -/
structure PortState where
  engine : State
  inProgress : Option InProgress
  /-- With no command in progress, `cmd_ready` is 1 at the latest after this many cycles (10_state.md R30, R156). -/
  wait : Nat
  /-- Only names the free values of Config. -/
  cycleNo : Nat
deriving DecidableEq, Repr

/-- The cycles until `cmd_ready` must be 1, finite and bounded (10_state.md R30, 70_reset_and_hazards.md R156). -/
def readyDelay (unit cycleNo : Nat) : Nat := min (Config.readyWish unit cycleNo) (Config.readyBound unit)

/-- The ports right after reset: no command in progress (10_state.md R30). -/
def PortState.reset : PortState where
  engine := State.reset
  inProgress := none
  wait := readyDelay 0 0
  cycleNo := 0

/-- `T_CMD` of a command accepted in this cycle: any value up to a bound that depends neither on the operand nor on `ACC`
(70_reset_and_hazards.md R156, R157). -/
def PortState.latency (p : PortState) (w : CmdWord) : Nat :=
  min (Config.latencyWish p.engine.unitNo p.cycleNo w p.engine.acc) (Config.latencyBound p.engine.unitNo)

/-- Whether `cmd_ready` may be 1 before it must be (U6). -/
def PortState.early (p : PortState) : Bool := Config.readyEarly p.engine.unitNo p.cycleNo

/-- The engine can take a command: never between an acceptance and its response cycle; in the response cycle and while it
is getting ready it may; when the wait is over it must (10_state.md R28, R30; log entry 9). -/
def PortState.ready (p : PortState) : Bool :=
  match p.inProgress with
  | some ⟨_, _ + 1⟩ => false
  | some ⟨_, 0⟩ => p.early
  | none => p.wait == 0 || p.early

/-- `cmd_ready` on the wire; while `rst` is 1 no command is accepted whatever it shows, and its value is open. -/
def PortState.cmdReady (p : PortState) (i : PortIn) : Bool := if i.rst then p.early else p.ready

/-- A command is accepted in a cycle in which `cmd_valid` and `cmd_ready` are both 1 and `rst` is 0 (10_state.md R28). -/
def PortState.accepts (p : PortState) (i : PortIn) : Bool := !i.rst && i.cmdValid && p.ready

/-- The command whose response cycle this is, when `rst` is 0: the one in progress that has no cycle left, or one accepted
in this very cycle with `T_CMD = 0`. -/
def PortState.answers (p : PortState) (i : PortIn) : Option CmdWord :=
  match p.inProgress with
  | some ⟨_, _ + 1⟩ => none
  | some ⟨w, 0⟩ => some w
  | none => if p.accepts i && p.latency i.cmd == 0 then some i.cmd else none

/-- The event of the transaction level this cycle is: reset wins over a command (60_exceptions.md R134).
Every cycle with `rst` at 1 is a reset event of its own, so a reset held for several cycles draws `ACC_RESET` and counts a
reset in each, and the last draw stands: DESIGN CHOICE, log entry 13, safe. The spec sees reset as one event and does not say
how a held `rst` maps to it (70_reset_and_hazards.md R150, U4, U8). -/
def PortState.event (p : PortState) (i : PortIn) : HostEvent :=
  if i.rst then .reset
  else match p.answers i with
    | some w => .command w
    | none => .idle

/-- The command in progress after this cycle; a reset abandons it (70_reset_and_hazards.md R150). A command accepted in
the response cycle of another is answered in a later cycle, since one cycle has one response. -/
def PortState.nextInProgress (p : PortState) (i : PortIn) : Option InProgress :=
  if i.rst then none
  else match p.inProgress with
    | some ⟨w, k + 1⟩ => some ⟨w, k⟩
    | some ⟨_, 0⟩ => if p.accepts i then some ⟨i.cmd, p.latency i.cmd - 1⟩ else none
    | none =>
      if p.accepts i && p.latency i.cmd != 0 then some ⟨i.cmd, p.latency i.cmd - 1⟩ else none

/-- The wait after this cycle: drawn anew at a reset, for the time after a command just accepted, and when the engine was
ready and nothing was offered, since the spec does not say that `cmd_ready` then stays 1 (U6). -/
def PortState.nextWait (p : PortState) (i : PortIn) : Nat :=
  if i.rst || p.accepts i then readyDelay p.engine.unitNo p.cycleNo
  else match p.inProgress with
    | some _ => p.wait
    | none => if p.wait == 0 then readyDelay p.engine.unitNo p.cycleNo else p.wait - 1

/-- The outputs of a cycle that is the event `e`, after which the engine is `t`: `rsp_valid` is 1 exactly in a response
cycle, with that command's response on `rsp` (10_state.md R28). -/
def PortState.outputs (p : PortState) (i : PortIn) (t : State) : PortOut where
  cmdReady := p.cmdReady i
  rspValid := !i.rst && (p.answers i).isSome
  rsp :=
    if !i.rst && (p.answers i).isSome then
      t.responses.getLastD (Config.rspWhileInvalid p.engine.unitNo p.cycleNo)
    else Config.rspWhileInvalid p.engine.unitNo p.cycleNo

/-- One clock cycle. The command takes effect in its response cycle, so an abandoned command has none
(70_reset_and_hazards.md R151). -/
def cycle (p : PortState) (i : PortIn) : Host.Outcome (PortState × PortOut) Fault Refusal :=
  match runEvent (p.event i) p.engine with
  | .next t =>
    .next ({ engine := t, inProgress := p.nextInProgress i, wait := p.nextWait i, cycleNo := p.cycleNo + 1 },
      p.outputs i t)
  | .fault r => .fault r
  | .refused r => .refused r

/-- Clock cycles with the given inputs: the last state and the outputs, oldest first. -/
def runPorts : List PortIn → PortState → Host.Outcome (PortState × List PortOut) Fault Refusal
  | [], p => .next (p, [])
  | i :: is, p =>
    match cycle p i with
    | .next (q, o) =>
      match runPorts is q with
      | .next (q', os) => .next (q', o :: os)
      | .fault r => .fault r
      | .refused r => .refused r
    | .fault r => .fault r
    | .refused r => .refused r

/-- The command words accepted in a trace, in order, read off its wires (10_state.md R28). -/
def acceptedWords (ins : List PortIn) (outs : List PortOut) : List CmdWord :=
  (ins.zip outs).filterMap fun (i, o) => if !i.rst && i.cmdValid && o.cmdReady then some i.cmd else none

/-- The response words delivered in a trace, in order, read off its wires (10_state.md R28). -/
def deliveredResponses (outs : List PortOut) : List RspWord :=
  outs.filterMap fun o => if o.rspValid then some o.rsp else none

end Sys2Proof.Machine
end

