-- ==== Sys2Proof/Safety.lean ====
section
/-! DEFINITION. What claims call a clean run, and the invariants of the machine. -/

namespace Sys2Proof.Machine

/-- A clean run: every response so far has `ERR` = 0 (60_exceptions.md section 8). -/
def State.clean (s : State) : Bool := s.responses.all fun r => rspErr r == 0#1

/-- The last response, if there is one, shows the accumulator: "the low 32 bits of the response equal `ACC'`, the
accumulator after the step" (30_encoding.md R68), and nothing changes `ACC` between commands (10_state.md R22). -/
def State.lastResponseShowsAcc (s : State) : Bool :=
  match s.responses.getLast? with
  | some r => rspData r == s.acc
  | none => true

/-- Within a run, an error response repeats the `DATA` of the response before it: an illegal command changes nothing
(60_exceptions.md R131). -/
def errorsRepeatData : List RspWord → Bool
  | a :: b :: rest => (rspErr b == 0#1 || rspData b == rspData a) && errorsRepeatData (b :: rest)
  | _ => true

/-- What every step keeps: the responses of the run agree with the accumulator. -/
def State.consistent (s : State) : Bool := s.lastResponseShowsAcc && errorsRepeatData s.responses

/-- What every clock cycle keeps: the cycles still to wait are below the bounds of 70_reset_and_hazards.md R156, so that every
accepted command is answered and the engine becomes ready within a bounded number of cycles. -/
def PortState.bounded (p : PortState) : Prop :=
  p.wait ≤ Config.readyBound p.engine.unitNo ∧
    ∀ c, p.inProgress = some c → c.left < Config.latencyBound p.engine.unitNo

end Sys2Proof.Machine
end

