-- ==== Sys2Proof/Certificates/Slice0/Obligations.lean ====
section
/-! DEFINITION. The statements for the provers, from the numbered rules of spec/. The meanings are equations between whole
states, so each says the instruction's result, its completion and its frame at once: every field the equation does not
name is unchanged. The engine has no memory, flag, program counter, special register or mode (10_state.md R23 to R26,
20_memory.md R40), so the frame is the accumulator, the responses, what the host still has to send, and the two counters. -/

open Sys2Proof Sys2Proof.Machine

/-! ### Encoding -/

/-- Decoding and encoding are inverse to each other, for every command with every operand and for every word
(30_encoding.md R74: "Encoding then decoding, and decoding then encoding, are the identity"). -/
def Obligations.DecodeAndEncodeAgree : Prop :=
  ∀ (i : Instr) (w : CmdWord), decode w = .ok i ↔ w = encode i

/-- A word decodes to a row's command exactly when `(w & mask) == match`, to none exactly when it matches no row, and no
word matches two rows (30_encoding.md section 3). -/
def Obligations.WordsDecodeByTheirOpcodeRow : Prop :=
  (∀ w : CmdWord, (∃ v, decode w = .ok (.ldacc v)) ↔ w &&& 0xF00000000#36 = 0x100000000#36) ∧
  (∀ w : CmdWord, (∃ b, decode w = .ok (.updb b)) ↔ w &&& 0xFFFFFFF00#36 = 0x200000000#36) ∧
  (∀ w : CmdWord, decode w = .ok .rdacc ↔ w &&& 0xFFFFFFFFF#36 = 0x300000000#36) ∧
  (∀ w : CmdWord, (∃ c, decode w = .error c) ↔ ∀ r ∈ opcodeMap, r.fits w = false) ∧
  (∀ w : CmdWord, ∀ r ∈ opcodeMap, ∀ r' ∈ opcodeMap, r.fits w = true → r'.fits w = true → r = r')

/-- 30_encoding.md R67: the four classes of illegal words, exactly; a word is in one of them exactly when it matches no
row; and all four leave `ACC` unchanged and respond with `ERR` = 1. -/
def Obligations.IllegalWordsByClass : Prop :=
  (∀ w : CmdWord, decode w = .error .reservedOpcodeZero ↔ cmdOp w = 0x0#4) ∧
  (∀ w : CmdWord, decode w = .error .reservedOpcodeHigh ↔ 0x4 ≤ (cmdOp w).toNat) ∧
  (∀ w : CmdWord, decode w = .error .updbReservedBits ↔ cmdOp w = 0x2#4 ∧ w.extractLsb' 8 24 ≠ 0#24) ∧
  (∀ w : CmdWord, decode w = .error .rdaccReservedBits ↔ cmdOp w = 0x3#4 ∧ w.extractLsb' 0 32 ≠ 0#32) ∧
  (∀ w : CmdWord, (∃ c, decode w = .error c) ↔ ∀ r ∈ opcodeMap, w &&& r.mask ≠ r.pattern) ∧
  (∀ (w : CmdWord) (c : IllegalClass) (s : State), decode w = .error c →
    runCommand w s = .next { s with responses := s.responses ++ [rspWord 1#1 s.acc] })

/-- Words written out from 30_encoding.md R66 and the vectors of 95_test_vectors.md 2.5 decode to what they stand for. The last
clause, a command word laid in 40 bits, is the model's choice (log entry 7): the spec knows 36 bits only. -/
def Obligations.SampleWordsDecode : Prop :=
  decode 0x1DEADBEEF#36 = .ok (.ldacc 0xDEADBEEF#32) ∧ decode 0x200000054#36 = .ok (.updb 0x54#8) ∧
  decode 0x300000000#36 = .ok .rdacc ∧ decode 0x200000162#36 = .error .updbReservedBits ∧
  decode 0x300000001#36 = .error .rdaccReservedBits ∧ decode 0x000000000#36 = .error .reservedOpcodeZero ∧
  decode 0xF12345678#36 = .error .reservedOpcodeHigh ∧ decodeTableWord 40 0x200000054 = some (.updb 0x54#8)

/-- 30_encoding.md R74: disassembly is the inverse of the assembler on all words; a printed word reads back as its line;
the numeral has eight digits after `LDACC`, two after `UPDB` and nine after `.word`. The exact text (one blank, upper-case
digits) and how a line is read are the model's choices (log entry 10). -/
def Obligations.DisassemblyInvertsAssembly : Prop :=
  (∀ w : CmdWord, assembleLine (disassemble w) = some [w]) ∧
  (∀ w : CmdWord, readLine (printWord w) = some (some (disassemble w))) ∧
  (∀ v : Word, printWord (encode (.ldacc v)) = nameLdacc ++ [' ', '0', 'x'] ++ hexDigits 8 v.toNat) ∧
  (∀ b : Byte, printWord (encode (.updb b)) = nameUpdb ++ [' ', '0', 'x'] ++ hexDigits 2 b.toNat) ∧
  printWord (encode .rdacc) = nameRdacc ∧
  (∀ (w : CmdWord) (c : IllegalClass), decode w = .error c →
    printWord w = nameWord ++ [' ', '0', 'x'] ++ hexDigits 9 w.toNat) ∧
  (∀ (i : Instr), decode (encode i) = .ok i) ∧ (∀ (w : CmdWord) (i : Instr), decode w = .ok i → encode i = w)

/-- The command word of each assembler line, and the lines that are an error of the assembler: an operand out of range
(30_encoding.md section 9). -/
def Obligations.AssemblerWords : Prop :=
  (∀ n : Nat, assembleLine (.ldacc n) =
    if n ≤ 0xFFFFFFFF then some [BitVec.ofNat 36 (0x100000000 + n)] else none) ∧
  (∀ n : Nat, assembleLine (.updb (.num n)) =
    if n ≤ 0xFF then some [BitVec.ofNat 36 (0x200000000 + n)] else none) ∧
  (∀ c : Char, assembleLine (.updb (.chr c)) =
    if c.toNat < 0x80 then some [BitVec.ofNat 36 (0x200000000 + c.toNat)] else none) ∧
  assembleLine .rdacc = some [0x300000000#36] ∧
  (∀ n : Nat, assembleLine (.dotWord n) = if n ≤ 0xFFFFFFFFF then some [BitVec.ofNat 36 n] else none)

/-- 30_encoding.md R73: what each pseudo-instruction expands to. -/
def Obligations.PseudoInstructionsExpand : Prop :=
  assembleLine .init = some [0x1FFFFFFFF#36] ∧
  (∀ bs : List Byte, assembleLine (.update (bs.map fun b => .num b.toNat)) =
    some (bs.map fun b => encode (.updb b))) ∧
  assembleLine (.update []) = some [] ∧
  (∀ cs : List Char, (∀ c ∈ cs, c.toNat < 0x80) →
    assembleLine (.updateText cs) = some (cs.map fun c => encode (.updb (BitVec.ofNat 8 c.toNat)))) ∧
  assembleLine .final = some [encode .rdacc] ∧ assembleLine .save = some [encode .rdacc] ∧
  (∀ v : Word, assembleLine (.restore v.toNat) = some [encode (.ldacc v)])

/-! ### The three commands: result, completion and frame -/

/-- 40_accumulator_access.md R80: `LDACC imm32` writes `ACC` with `imm32` and responds `{0, imm32}`, from every state; its
word is `0x100000000 + imm32`; every word with `OP` = `0x1` is a legal `LDACC`. Every other field is unchanged. -/
def Obligations.LdaccWritesAcc : Prop :=
  (∀ (v : Word) (s : State), exec (.ldacc v) s =
    .next { s with acc := v, responses := s.responses ++ [rspWord 0#1 v] }) ∧
  (∀ v : Word, (encode (.ldacc v)).toNat = 0x100000000 + v.toNat) ∧
  (∀ w : CmdWord, cmdOp w = 0x1#4 → decode w = .ok (.ldacc (w.extractLsb' 0 32)))

/-- 40_accumulator_access.md R81: `RDACC` responds `{0, ACC}` and changes nothing else, from every state; its word is
`0x300000000`; a word with `OP` = `0x3` and any of `cmd[31:0]` set raises `IllegalCommand`, with `ACC` in `DATA`. -/
def Obligations.RdaccReturnsAcc : Prop :=
  (∀ s : State, exec .rdacc s = .next { s with responses := s.responses ++ [rspWord 0#1 s.acc] }) ∧
  encode .rdacc = 0x300000000#36 ∧
  (∀ (w : CmdWord) (s : State), cmdOp w = 0x3#4 → w.extractLsb' 0 32 ≠ 0#32 →
    runCommand w s = .next { s with responses := s.responses ++ [rspWord 1#1 s.acc] })

/-- 41_update.md R92: `UPDB imm8` writes `ACC` with `crc_step(ACC, imm8)` and responds with it, from every state; its word
is `0x200000000 + imm8`; a word with `OP` = `0x2` and any of `cmd[31:8]` set folds nothing. Every other field is unchanged. -/
def Obligations.UpdbFoldsOneByte : Prop :=
  (∀ (b : Byte) (s : State), exec (.updb b) s =
    .next { s with
      acc := crcStep s.acc b
      responses := s.responses ++ [rspWord 0#1 (crcStep s.acc b)] }) ∧
  (∀ b : Byte, (encode (.updb b)).toNat = 0x200000000 + b.toNat) ∧
  (∀ (w : CmdWord) (s : State), cmdOp w = 0x2#4 → w.extractLsb' 8 24 ≠ 0#24 →
    runCommand w s = .next { s with responses := s.responses ++ [rspWord 1#1 s.acc] })

/-- The corner cases 41_update.md section 2 lists for `UPDB`: a byte equal to the low byte of `ACC` gives `ACC >> 8`; the
numbers; and the result depends on all 32 bits of `ACC` (no two accumulators give the same result for one byte). -/
def Obligations.UpdbCornerCases : Prop :=
  (∀ a : Word, crcStep a (a.extractLsb' 0 8) = a >>> 8) ∧
  crcStep 0x00000000#32 0x00#8 = 0x00000000#32 ∧ crcStep 0xDEADBEEF#32 0xEF#8 = 0x00DEADBE#32 ∧
  crcStep 0xFFFFFFFF#32 0xFF#8 = 0x00FFFFFF#32 ∧ crcStep 0xFFFFFFFF#32 0x00#8 = 0x2DFD1072#32 ∧
  (∀ (a a' : Word) (b : Byte), crcStep a b = crcStep a' b → a = a')

/-! ### One step -/

/-- When the host's next event is a command word that decodes to `i`, a step is `exec i` with that event taken from the
host's list; a word that decodes to none takes `IllegalCommand`. There is no program counter to move (10_state.md R23). -/
def Obligations.StepRunsTheDecodedCommand : Prop :=
  (∀ (s : State) (w : CmdWord) (rest : List HostEvent) (i : Instr),
    s.inbox = .command w :: rest → decode w = .ok i → step s = exec i { s with inbox := rest }) ∧
  (∀ (s : State) (w : CmdWord) (rest : List HostEvent) (c : IllegalClass),
    s.inbox = .command w :: rest → decode w = .error c →
    step s = .next { s with inbox := rest, responses := s.responses ++ [rspWord 1#1 s.acc] })

/-- 30_encoding.md R68: on every one of the 2^36 words and every accumulator, a step writes the accumulator and delivers the
response that the spec's step function gives, and changes nothing else; the low 32 bits of that response equal the
accumulator after the step. -/
def Obligations.StepIsTheSpecStepFunction : Prop :=
  (∀ (s : State) (w : CmdWord) (rest : List HostEvent), s.inbox = .command w :: rest →
    step s = .next { s with
      inbox := rest
      acc := (refStep s.acc w).1
      responses := s.responses ++ [(refStep s.acc w).2] }) ∧
  (∀ (a : Word) (w : CmdWord), rspData (refStep a w).2 = (refStep a w).1)

/-- 30_encoding.md R69: every accepted command gets exactly one response; `ERR` is 0 exactly for a legal word and 1 exactly
for an illegal one; `DATA` is `ACC` after the command, legal or illegal. -/
def Obligations.OneResponsePerCommand : Prop :=
  ∀ (w : CmdWord) (s : State), ∃ (t : State) (r : RspWord), runCommand w s = .next t ∧
    t.responses = s.responses ++ [r] ∧ rspData r = t.acc ∧
    (rspErr r = 0#1 ↔ isLegal w = true) ∧ (rspErr r = 1#1 ↔ isLegal w = false)

/-- 60_exceptions.md R130: no legal command raises an exception, for any `ACC` and any operand. -/
def Obligations.LegalCommandsNeverFail : Prop :=
  ∀ (i : Instr) (s : State), ∃ (t : State) (r : RspWord), runCommand (encode i) s = .next t ∧
    t.responses = s.responses ++ [r] ∧ rspErr r = 0#1

/-- 60_exceptions.md R131: `IllegalCommand`: a word that matches no row leaves `ACC` unwritten, is answered `{1, ACC}`, and
nothing else is recorded; no word that matches a row raises it. -/
def Obligations.IllegalCommandChangesNothing : Prop :=
  (∀ (w : CmdWord) (s : State), (∀ r ∈ opcodeMap, w &&& r.mask ≠ r.pattern) →
    runCommand w s = .next { s with responses := s.responses ++ [rspWord 1#1 s.acc] }) ∧
  (∀ (w : CmdWord) (s : State), (∃ r ∈ opcodeMap, w &&& r.mask = r.pattern) →
    ∃ (t : State) (r : RspWord), runCommand w s = .next t ∧ t.responses = s.responses ++ [r] ∧ rspErr r = 0#1)

/-- 10_state.md R22: `ACC` changes only by `LDACC`, which writes its operand, by `UPDB`, which writes
`crc_step(ACC, imm8)`, and by reset; nothing else writes it. -/
def Obligations.OnlyLoadUpdateAndResetWriteAcc : Prop :=
  ∀ (s t : State), step s = .next t → t.acc ≠ s.acc →
    (∃ v, s.inbox.head? = some (.command (encode (.ldacc v))) ∧ t.acc = v) ∨
    (∃ b, s.inbox.head? = some (.command (encode (.updb b))) ∧ t.acc = crcStep s.acc b) ∨
    s.inbox.head? = some .reset

/-- The passage of time changes neither `ACC` nor any response: with the host doing nothing a step leaves the state, and an
idle event leaves all but the host's list (10_state.md section 1, 60_exceptions.md section 9). -/
def Obligations.IdleTimeChangesNothing : Prop :=
  (∀ s : State, s.inbox = [] → step s = .next s) ∧
  (∀ (s : State) (rest : List HostEvent), s.inbox = .idle :: rest → step s = .next { s with inbox := rest })

/-- No step stops: from every state a step answers a next state (60_exceptions.md section 1; every one of the 2^36 words is
defined, 30_encoding.md section 4). -/
def Obligations.EveryStepAnswers : Prop :=
  ∀ s : State, ∃ t, step s = .next t

/-! ### Reset -/

/-- The reset event: `ACC` takes `ACC_RESET`, whatever came before, and the engine goes on with what the host does next. That
`ACC_RESET` is the free value `Config.accReset` and that the list of responses starts again are the model's choices (log
entries 1, 3). -/
def Obligations.ResetDrawsAccReset : Prop :=
  ∀ (s : State) (rest : List HostEvent), s.inbox = .reset :: rest →
    step s = .next { s with
      inbox := rest
      acc := Config.accReset s.unitNo (s.resetNo + 1) s.acc
      responses := []
      resetNo := s.resetNo + 1 }

/-- After reset `ACC` holds one value, "not a different value at each read": every number of `RDACC` returns the same
`ACC_RESET`, after the first reset and after a reset event (10_state.md section 5). The name of the value is the model's
(log entry 1); the statement holds for every value of it. -/
def Obligations.AccResetIsOneValue : Prop :=
  (∀ (unit n : Nat), runCommands (List.replicate n (encode .rdacc)) (State.resetOf unit) =
    .next { State.resetOf unit with
      responses := List.replicate n (rspWord 0#1 (Config.accPowerOn unit)) }) ∧
  (∀ (s : State) (n : Nat), ∃ r : Word,
    runEvents (.reset :: List.replicate n (.command (encode .rdacc))) s =
      .next { s with acc := r, responses := List.replicate n (rspWord 0#1 r), resetNo := s.resetNo + 1 })

/-- Whatever `ACC_RESET` is, a checksum begun with `LDACC` does not depend on it: after a reset, `LDACC v` and any commands
leave the accumulator and give the responses they would from any other state (70_reset_and_hazards.md section 2). -/
def Obligations.LoadAfterResetForgetsAccReset : Prop :=
  ∀ (s t : State) (v : Word) (cs : List CmdWord), ∃ (s' t' : State) (rs : List RspWord),
    runEvents (.reset :: .command (encode (.ldacc v)) :: cs.map .command) s = .next s' ∧
    runCommands (encode (.ldacc v) :: cs) t = .next t' ∧
    s'.acc = t'.acc ∧ s'.responses = rs ∧ t'.responses = t.responses ++ rs

/-- The state after reset: `ACC` is the free value, no response, nothing sent (10_state.md section 5). The empty lists and
the zero counters are the model's choices (log entries 2, 3, 4). -/
def Obligations.ResetState : Prop :=
  State.reset = { acc := Config.accPowerOn 0, inbox := [], responses := [], unitNo := 0, resetNo := 0 }

/-! ### The invariant -/

/-- The state after reset is consistent, for every engine instance. -/
def Obligations.ResetIsConsistent : Prop :=
  ∀ unit : Nat, (State.resetOf unit).consistent = true

/-- Every step keeps the consistency of the responses with the accumulator: the last response of the run shows `ACC`
(30_encoding.md section 5), and an error response repeats the `DATA` before it (60_exceptions.md section 2). -/
def Obligations.StepKeepsConsistency : Prop :=
  ∀ s t : State, s.consistent = true → step s = .next t → t.consistent = true

/-! ### Runs -/

/-- 20_memory.md R49: commands take effect one at a time in the order they were accepted: from any state, running the words
`c1, ..., cn` gives the last accumulator and the responses `r1, ..., rn` of the recurrence, in order, and changes nothing else. -/
def Obligations.RunIsTheRecurrence : Prop :=
  ∀ (cs : List CmdWord) (s : State), runCommands cs s =
    .next { s with acc := (refRun s.acc cs).1, responses := s.responses ++ (refRun s.acc cs).2 }

/-- No state but `ACC` can be seen through any commands: two engines that agree on `ACC`, whatever else differs, give the
same responses to every list of words and agree on `ACC` afterwards (10_state.md section 3, 41_update.md section 3). -/
def Obligations.OnlyAccIsObservable : Prop :=
  ∀ (s t : State) (cs : List CmdWord), s.acc = t.acc → ∃ (s' t' : State) (rs : List RspWord),
    runCommands cs s = .next s' ∧ runCommands cs t = .next t' ∧ s'.acc = t'.acc ∧
    s'.responses = s.responses ++ rs ∧ t'.responses = t.responses ++ rs

/-- 40_accumulator_access.md R82: `LDACC v`; `RDACC` responds `{0, v}` twice from any state and ends with `ACC` = `v`. -/
def Obligations.ReadAfterLoad : Prop :=
  ∀ (v : Word) (s : State), runCommands [encode (.ldacc v), encode .rdacc] s =
    .next { s with acc := v, responses := s.responses ++ [rspWord 0#1 v, rspWord 0#1 v] }

/-- 40_accumulator_access.md R83: the `DATA` of an `RDACC` is a complete snapshot. From any state `s`, let `RDACC` return
`v`; in any state `t` at all (the same engine after any events, or another engine), `LDACC v` gives every later list of
words the responses and the accumulator it has from `s`. -/
def Obligations.SnapshotRestores : Prop :=
  ∀ s : State, ∃ (s₁ : State) (v : Word), runCommands [encode .rdacc] s = .next s₁ ∧ s₁.lastData = some v ∧
    ∀ (t : State) (cs : List CmdWord), ∃ (s₂ t₂ : State) (rs : List RspWord),
      runCommands cs s₁ = .next s₂ ∧ runCommands (encode (.ldacc v) :: cs) t = .next t₂ ∧
      t₂.acc = s₂.acc ∧ s₂.responses = s₁.responses ++ rs ∧ t₂.responses = t.responses ++ rspWord 0#1 v :: rs

/-- 20_memory.md R47: any number of `RDACC` return the same `DATA` and leave `ACC`; `LDACC v` twice leaves the same `ACC` as
once; `UPDB` twice differs from once, by the numbers given; an illegal word has no side effect on `ACC`. -/
def Obligations.SideEffectsAndIdempotency : Prop :=
  (∀ (n : Nat) (s : State), runCommands (List.replicate n (encode .rdacc)) s =
    .next { s with responses := s.responses ++ List.replicate n (rspWord 0#1 s.acc) }) ∧
  (∀ (v : Word) (s : State), ∃ t₁ t₂ : State, runCommands [encode (.ldacc v)] s = .next t₁ ∧
    runCommands [encode (.ldacc v), encode (.ldacc v)] s = .next t₂ ∧ t₁.acc = t₂.acc) ∧
  (∀ s : State, s.acc = 0xFFFFFFFF#32 → ∃ t₁ t₂ : State, runCommands [0x200000000#36] s = .next t₁ ∧
    runCommands [0x200000000#36, 0x200000000#36] s = .next t₂ ∧
    t₁.acc = 0x2DFD1072#32 ∧ t₂.acc = 0xBE26ED00#32) ∧
  (∀ (w : CmdWord) (s : State), isLegal w = false → ∃ t, runCommand w s = .next t ∧ t.acc = s.acc)

/-- 60_exceptions.md R136: any number of illegal words in a row produce that many `ERR` = 1 responses and leave `ACC` as it
was before the first. -/
def Obligations.IllegalWordsInARow : Prop :=
  ∀ (cs : List CmdWord) (s : State), (∀ w ∈ cs, isLegal w = false) →
    runCommands cs s = .next { s with responses := s.responses ++ List.replicate cs.length (rspWord 1#1 s.acc) }

/-- 60_exceptions.md R135: the commands after an illegal word are executed as if it had never been sent: a list of words, and
the list without its illegal words, end with the same accumulator and give the same `ERR` = 0 responses. -/
def Obligations.IllegalWordsLeaveNoTrace : Prop :=
  ∀ (cs : List CmdWord) (s : State), ∃ t u : State,
    runCommands cs s = .next t ∧ runCommands (cs.filter isLegal) s = .next u ∧ t.acc = u.acc ∧
    t.responses.filter (fun r => rspErr r == 0#1) = u.responses.filter (fun r => rspErr r == 0#1)

/-- A run from a clean state is clean exactly when every word sent is legal (60_exceptions.md section 8: "every response has
`ERR` = 0"). -/
def Obligations.CleanRunsHaveOnlyLegalWords : Prop :=
  ∀ (cs : List CmdWord) (s : State), s.clean = true →
    ∃ t, runCommands cs s = .next t ∧ (t.clean = true ↔ ∀ w ∈ cs, isLegal w = true)

/-! ### The CRC functions -/

/-- 41_update.md R90: the round, bit by bit: `crc_round(a)[31] = a[0]` and `crc_round(a)[i] = a[i+1] ^ (a[0] & p[i])`. -/
def Obligations.RoundBitByBit : Prop :=
  (∀ a : Word, a.getLsbD 0 = true → crcRound a = (a >>> 1) ^^^ 0xEDB88320#32) ∧
  (∀ a : Word, a.getLsbD 0 = false → crcRound a = a >>> 1) ∧
  (∀ a : Word, (crcRound a).getLsbD 31 = a.getLsbD 0) ∧
  (∀ (a : Word) (i : Nat), i ≤ 30 →
    (crcRound a).getLsbD i = (a.getLsbD (i + 1) ^^ (a.getLsbD 0 && (0xEDB88320#32).getLsbD i)))

/-- The byte meets the low eight bits of the accumulator, bit `i` with bit `i`, and no other (20_memory.md section 2,
30_encoding.md section 2), then exactly eight rounds follow, for every byte (41_update.md section 1). -/
def Obligations.ByteMeetsLowBitsThenEightRounds : Prop :=
  (∀ (a : Word) (b : Byte) (i : Nat), i < 8 → (a ^^^ zext32 b).getLsbD i = (a.getLsbD i ^^ b.getLsbD i)) ∧
  (∀ (a : Word) (b : Byte) (i : Nat), 8 ≤ i → (a ^^^ zext32 b).getLsbD i = a.getLsbD i) ∧
  (∀ (a : Word) (b : Byte), crcStep a b = Nat.repeat crcRound 8 (a ^^^ zext32 b))

/-- 41_update.md R100: the round is linear, so are eight of them; the consequences the rule lists; and the table's entries
at the powers of two. -/
def Obligations.RoundsAreLinear : Prop :=
  (∀ x y : Word, crcRound (x ^^^ y) = crcRound x ^^^ crcRound y) ∧ crcRound 0#32 = 0#32 ∧
  (∀ x y : Word, eightRounds (x ^^^ y) = eightRounds x ^^^ eightRounds y) ∧
  (∀ (a : Word) (b : Byte), crcStep a b = eightRounds (a ^^^ zext32 b)) ∧
  (∀ (a : Word) (b : Byte), crcStep a b = eightRounds a ^^^ crcTableAt b) ∧
  (∀ (a : Word) (b : Byte), crcStep a b = crcStep (a ^^^ zext32 b) 0#8) ∧
  (∀ (a d : Word) (b : Byte), crcStep (a ^^^ d) b = crcStep a b ^^^ eightRounds d) ∧
  (∀ i j : Byte, crcTableAt (i ^^^ j) = crcTableAt i ^^^ crcTableAt j) ∧
  crcTableAt 0x01#8 = 0x77073096#32 ∧ crcTableAt 0x02#8 = 0xEE0E612C#32 ∧ crcTableAt 0x04#8 = 0x076DC419#32 ∧
  crcTableAt 0x08#8 = 0x0EDB8832#32 ∧ crcTableAt 0x10#8 = 0x1DB71064#32 ∧ crcTableAt 0x20#8 = 0x3B6E20C8#32 ∧
  crcTableAt 0x40#8 = 0x76DC4190#32 ∧ crcTableAt 0x80#8 = 0xEDB88320#32

/-- 41_update.md R97: the table has 256 entries and `T[i] = crc_step(0x00000000, i)`. -/
def Obligations.TableHoldsEightRoundsOfEachByte : Prop :=
  crcTable.length = 256 ∧ ∀ i : Byte, crcTableAt i = crcStep 0x00000000#32 i

/-- 41_update.md R98 and R99: the table-driven byte step is bit-identical to the bit-serial one for every argument pair, and
so is the table-driven update of every sequence. -/
def Obligations.TableStepIsBitIdentical : Prop :=
  (∀ (a : Word) (b : Byte), crcStep a b = crcTableAt ((a ^^^ zext32 b).extractLsb' 0 8) ^^^ (a >>> 8)) ∧
  (∀ (a : Word) (b : Byte), crcStepTable a b = crcStep a b) ∧
  (∀ (S : List Byte) (a : Word), crcUpdateTable a S = crcUpdate a S)

/-- 41_update.md R101: a zero accumulator cannot see zero bytes: `crc_round(0) == 0`, `crc_step(0, 0) == 0`, and
`crc_update(0, Z) == 0` for zero bytes of any length. -/
def Obligations.ZeroSeedHidesZeroBytes : Prop :=
  crcRound 0#32 = 0#32 ∧ crcStep 0#32 0#8 = 0#32 ∧
  (∀ n : Nat, crcUpdate 0#32 (List.replicate n 0#8) = 0#32) ∧
  (∀ (n : Nat) (S : List Byte), crcUpdate 0#32 (List.replicate n 0#8 ++ S) = crcUpdate 0#32 S)

/-- 41_update.md R102: the round is a bijection with the inverse given; hence so are the byte step for every byte and the
update for every sequence: no information in `ACC` is lost by `UPDB`. -/
def Obligations.UpdateIsInvertible : Prop :=
  (∀ a : Word, crcRoundInv (crcRound a) = a) ∧ (∀ r : Word, crcRound (crcRoundInv r) = r) ∧
  (∀ b : Byte, Function.Bijective fun a : Word => crcStep a b) ∧
  (∀ S : List Byte, Function.Bijective fun a : Word => crcUpdate a S)

/-- 41_update.md R94: the empty sequence is the identity, as a function and on the engine, where it is no `UPDB` at all. -/
def Obligations.EmptyUpdateIsIdentity : Prop :=
  (∀ a : Word, crcUpdate a [] = a) ∧ (∀ s : State, runCommands (updateCmds []) s = .next s)

/-- 41_update.md R95: the chunking invariant, for all accumulators and all sequences, empty ones included. -/
def Obligations.ChunkingInvariant : Prop :=
  ∀ (a : Word) (S1 S2 : List Byte), crcUpdate (crcUpdate a S1) S2 = crcUpdate a (S1 ++ S2)

/-- 41_update.md R93: the sequence update folds the bytes in increasing index, and the engine performs it by the list
`UPDB S[0]; ...; UPDB S[n-1]`: after it `ACC` is `crc_update(a, S)`, one response per byte, and the `DATA` of the last
response is that value. -/
def Obligations.UpdateRunFoldsTheSequence : Prop :=
  (∀ a : Word, crcUpdate a [] = a) ∧
  (∀ (a : Word) (S : List Byte) (b : Byte), crcUpdate a (S ++ [b]) = crcStep (crcUpdate a S) b) ∧
  (∀ (S : List Byte) (s : State), ∃ t : State, runCommands (updateCmds S) s = .next t ∧
    t.acc = crcUpdate s.acc S ∧ t.responses.length = s.responses.length + S.length ∧
    (S ≠ [] → t.lastData = some (crcUpdate s.acc S)))

/-- A byte stream survives pauses, reads and illegal words between its bytes: for every list of host events without a reset
and without an `LDACC`, the last accumulator is the update by the bytes of its `UPDB` commands (41_update.md section 3,
40_accumulator_access.md section 2, 60_exceptions.md section 5). -/
def Obligations.StreamSurvivesPausesReadsAndErrors : Prop :=
  ∀ (evs : List HostEvent) (s : State), HostEvent.reset ∉ evs →
    (∀ v : Word, HostEvent.command (encode (.ldacc v)) ∉ evs) →
    ∃ t : State, runEvents evs s = .next t ∧ t.acc = crcUpdate s.acc (bytesSent evs)

/-! ### The host's protocols -/

/-- The CRC-32 values the spec gives: the fox vector of the source, the empty sequence, "a", "123456789"
(42_host_convention.md section 1, 95_test_vectors.md 1.1, 2.3). -/
def Obligations.KnownCrcValues : Prop :=
  crc32 [] = 0x00000000#32 ∧ crc32 [0x61#8] = 0xE8B7BE43#32 ∧
  crc32 ([0x31, 0x32, 0x33, 0x34, 0x35, 0x36, 0x37, 0x38, 0x39].map (BitVec.ofNat 8)) = 0xCBF43926#32 ∧
  crc32 (("The quick brown fox jumps over the lazy dog".toList).map charByte) = 0x414FA339#32

/-- 42_host_convention.md R123: the one-shot protocol. From any state, `INIT`; `UPDATE S`; `FINAL` is `n + 2` commands, all
`n + 2` responses have `ERR` = 0, the last one's `DATA` is `crc_update(0xFFFFFFFF, S)` and its complement is `crc32(S)`; the host
may as well complement the response before it. -/
def Obligations.OneShotComputesCrc32 : Prop :=
  ∀ (S : List Byte) (s : State), (oneShotCmds S).length = S.length + 2 ∧
    ∃ (t u : State) (rs : List RspWord), runCommands (oneShotCmds S) s = .next t ∧
      t.responses = s.responses ++ rs ∧ rs.length = S.length + 2 ∧ (∀ r ∈ rs, rspErr r = 0#1) ∧
      t.lastData = some (crcUpdate seed S) ∧ t.lastData.map finalise = some (crc32 S) ∧
      runCommands (initCmds ++ updateCmds S) s = .next u ∧ u.lastData.map finalise = some (crc32 S)

/-- 42_host_convention.md R124: the streaming protocol. Data in chunks of any lengths gives the one-shot result of their
concatenation; an `RDACC` between chunks gives the CRC-32 of the bytes so far and does not disturb the stream; and from a
kept finalised value `c = crc32(S1)` alone, in any state, `LDACC ~c`; `UPDATE S2`; `FINAL` gives `crc32(S1 + S2)`. -/
def Obligations.StreamingEqualsOneShot : Prop :=
  (∀ (chunks : List (List Byte)) (s : State), ∃ t : State, runCommands (streamCmds chunks) s = .next t ∧
    t.lastData.map finalise = some (crc32 chunks.flatten)) ∧
  (∀ (S1 S2 : List Byte) (s : State), ∃ t u : State,
    runCommands (initCmds ++ updateCmds S1 ++ readCmds) s = .next t ∧
    t.lastData.map finalise = some (crc32 S1) ∧
    runCommands (updateCmds S2 ++ readCmds) t = .next u ∧ u.lastData.map finalise = some (crc32 (S1 ++ S2))) ∧
  (∀ (S1 S2 : List Byte) (s : State), ∃ t : State, runCommands (resumeCmds (crc32 S1) S2) s = .next t ∧
    t.lastData.map finalise = some (crc32 (S1 ++ S2)))

/-- 42_host_convention.md R125: two streams on one engine, in any alternation of turns, with save and restore at each turn:
each stream's saved value is what it would have been alone, whatever state the engine is in at the start. -/
def Obligations.TwoStreamsDoNotMix : Prop :=
  ∀ (turns : List (Bool × List Byte)) (v : SavedStreams) (s : State), ∃ (v' : SavedStreams) (t : State),
    hostTurns turns v s = .next (v', t) ∧
    v'.vA = crcUpdate v.vA (bytesOf true turns) ∧ v'.vB = crcUpdate v.vB (bytesOf false turns)

/-! ### The ports -/

/-- A clock cycle always answers; it delivers a response exactly when a command is answered in it, and then the response and
the accumulator are those of the spec's step function; otherwise, without reset, the engine is unchanged
(10_state.md section 4, 30_encoding.md section 5). That `ACC` moves in the response cycle and not before is the model's choice
(log entry 5, DEDUCED): the spec does not fix the cycle of the effect. -/
def Obligations.CycleDeliversTheSpecResponse : Prop :=
  ∀ (p : PortState) (i : PortIn), i.rst = false → ∃ (q : PortState) (o : PortOut), cycle p i = .next (q, o) ∧
    (o.rspValid = true ↔ ∃ w, p.answers i = some w) ∧
    (∀ w, p.answers i = some w → o.rsp = (refStep p.engine.acc w).2 ∧ q.engine.acc = (refStep p.engine.acc w).1) ∧
    (p.answers i = none → q.engine = p.engine)

/-- The port level refines the transaction level: with no reset and nothing in progress at the start, for every sequence of
inputs, the words accepted on the wires are the words answered followed by the one still in progress, and the responses
delivered on the wires, in order, and the accumulator are those of the spec's recurrence on the words answered
(10_state.md section 4, 20_memory.md section 4). That `ACC` is that of the words answered, without the one in progress, is the
model's choice (log entry 5, DEDUCED); the latencies are free values (log entry 8). -/
def Obligations.PortTraceMeetsTheRecurrence : Prop :=
  ∀ (ins : List PortIn) (p : PortState), (∀ i ∈ ins, i.rst = false) → p.inProgress = none →
    ∃ (q : PortState) (outs : List PortOut) (answered : List CmdWord), runPorts ins p = .next (q, outs) ∧
      outs.length = ins.length ∧
      acceptedWords ins outs = answered ++ (q.inProgress.map InProgress.word).toList ∧
      deliveredResponses outs = (refRun p.engine.acc answered).2 ∧
      q.engine.acc = (refRun p.engine.acc answered).1

/-- 70_reset_and_hazards.md R150: while `rst` is 1 the engine accepts no command and raises no response, whatever the host
offers; `ACC` takes `ACC_RESET`; a command in progress is abandoned. The names of the free values, and that
each cycle of a held reset is an event with its own draw, are the model's choices (log entries 1, 8, 13). -/
def Obligations.ResetCycleAbandonsTheCommand : Prop :=
  ∀ (p : PortState) (i : PortIn), i.rst = true → p.accepts i = false ∧
    ∃ (q : PortState) (o : PortOut), cycle p i = .next (q, o) ∧ o.rspValid = false ∧ q.inProgress = none ∧
      q.engine.acc = Config.accReset p.engine.unitNo (p.engine.resetNo + 1) p.engine.acc

/-- An accepted command is answered: with `k` cycles left and no reset, whatever the host drives, the next `k` cycles carry no
response and accept nothing, and the cycle after them carries the command's response (10_state.md section 4,
70_reset_and_hazards.md section 4). The response is computed from `ACC` as held while the command is in progress, since the
command takes effect in its response cycle: the model's choice (log entry 5, DEDUCED). -/
def Obligations.AcceptedCommandIsAnswered : Prop :=
  ∀ (ins : List PortIn) (last : PortIn) (p : PortState) (w : CmdWord),
    (∀ i ∈ ins, i.rst = false) → last.rst = false → p.inProgress = some ⟨w, ins.length⟩ →
    ∃ (q : PortState) (outs : List PortOut) (o : PortOut), runPorts (ins ++ [last]) p = .next (q, outs ++ [o]) ∧
      (∀ x ∈ outs, x.rspValid = false ∧ x.cmdReady = false) ∧
      o.rspValid = true ∧ o.rsp = (refStep p.engine.acc w).2

/-- A command the host keeps offering is accepted within a bound that depends neither on the command nor on `ACC`: the engine
never stops accepting commands for good (10_state.md section 5, 70_reset_and_hazards.md section 4). The bounds are the
model's names for what the rule says is finite (log entry 8). -/
def Obligations.OfferedCommandIsAccepted : Prop :=
  ∀ (p : PortState) (w : CmdWord), p.bounded →
    ∃ (q : PortState) (outs : List PortOut),
      runPorts (List.replicate (Config.latencyBound p.engine.unitNo + Config.readyBound p.engine.unitNo + 1)
        ⟨false, true, w⟩) p = .next (q, outs) ∧
      w ∈ acceptedWords (List.replicate (Config.latencyBound p.engine.unitNo +
        Config.readyBound p.engine.unitNo + 1) ⟨false, true, w⟩) outs

/-- The ports right after reset: nothing in progress, and the wait within its bound (10_state.md section 5). -/
def Obligations.ResetPortsAreBounded : Prop :=
  PortState.reset.bounded ∧ PortState.reset.inProgress = none

/-- Every clock cycle, reset cycles included, keeps the waits within their bounds (70_reset_and_hazards.md section 4). -/
def Obligations.CycleKeepsTheBounds : Prop :=
  ∀ (p q : PortState) (i : PortIn) (o : PortOut), p.bounded → cycle p i = .next (q, o) → q.bounded

/-! ### Several engines -/

/-- Engine instances share nothing: in any order of steps, an engine ends in the state its own steps alone give it
(60_exceptions.md section 9, 20_memory.md section 5). That the engines step one at a time, and that a step of an engine that
does not exist changes nothing, are the model's choices (log entry 11, DEDUCED). -/
def Obligations.EnginesShareNothing : Prop :=
  ∀ (ks : List Nat) (p : Platform), ∃ q : Platform, Platform.run ks p = .next q ∧ q.length = p.length ∧
    ∀ (j : Nat) (s : State), p[j]? = some s → ∃ t : State, stepN (ks.count j) s = .next t ∧ q[j]? = some t
end

