-- ==== Sys2Proof/Laws/Assembler.lean ====
section
/-! SUPPORT. Small lemmas of the assembler's digits: a printed digit reads back as its value. -/

namespace Sys2Proof.Machine

/-- A printed digit reads back as its value. -/
theorem digitValue_hexDigit (n : Nat) (h : n < 16) : digitValue (hexDigit n) = some n := by
  revert n; decide

/-- A printed digit is a character of a numeral. -/
theorem isNumeralChar_hexDigit (n : Nat) (h : n < 16) : isNumeralChar (hexDigit n) = true := by
  revert n; decide

/-- A numeral has the number of digits asked for. -/
@[simp] theorem hexDigits_length (k n : Nat) : (hexDigits k n).length = k := by
  induction k generalizing n with
  | zero => rfl
  | succ k ih => simp [hexDigits, ih]

/-- Every character of a printed numeral is one a numeral is made of. -/
theorem isNumeralChar_of_mem_hexDigits {k n : Nat} {c : Char} (h : c ∈ hexDigits k n) : isNumeralChar c = true := by
  induction k generalizing n with
  | zero => simp [hexDigits] at h
  | succ k ih =>
    simp only [hexDigits, List.mem_append, List.mem_singleton] at h
    rcases h with h | rfl
    · exact ih h
    · exact isNumeralChar_hexDigit _ (by omega)

end Sys2Proof.Machine
end

