-- ==== Sys2Proof/Laws/Words.lean ====
section
/-! SUPPORT. The fields of command and response words: what each field of an encoded command is, and that a word is its
fields. -/

namespace Sys2Proof

@[simp] theorem cmdOp_encode_ldacc (v : Word) : cmdOp (encode (.ldacc v)) = 0x1#4 := by
  ext i hi; simp only [cmdOp, encode]; grind

@[simp] theorem cmdOp_encode_updb (b : Byte) : cmdOp (encode (.updb b)) = 0x2#4 := by
  revert b; decide

@[simp] theorem cmdOp_encode_rdacc : cmdOp (encode .rdacc) = 0x3#4 := by decide

@[simp] theorem cmdArg_encode_ldacc (v : Word) : cmdArg (encode (.ldacc v)) = v := by
  ext i hi; simp only [cmdArg, encode]; grind

@[simp] theorem cmdZero24_encode_updb (b : Byte) : cmdZero24 (encode (.updb b)) = 0#24 := by
  revert b; decide

@[simp] theorem cmdImm8_encode_updb (b : Byte) : cmdImm8 (encode (.updb b)) = b := by
  ext i hi; simp only [cmdImm8, encode]; grind

@[simp] theorem cmdArg_encode_rdacc : cmdArg (encode .rdacc) = 0#32 := by decide

/-- A command word is its opcode and its argument (30_encoding.md R61). -/
theorem cmdWord_eq_fields (w : CmdWord) : w = cmdOp w ++ cmdArg w := by
  ext i hi; simp only [cmdOp, cmdArg]; grind

/-- The argument of a command word is its upper 24 bits and its byte (30_encoding.md R63). -/
theorem cmdArg_eq_fields (w : CmdWord) : cmdArg w = cmdZero24 w ++ cmdImm8 w := by
  ext i hi; simp only [cmdArg, cmdZero24, cmdImm8]; grind

namespace Machine

@[simp] theorem rspErr_rspWord (e : BitVec 1) (d : Word) : rspErr (rspWord e d) = e := by
  ext i hi; simp only [rspErr, rspWord]; grind

@[simp] theorem rspData_rspWord (e : BitVec 1) (d : Word) : rspData (rspWord e d) = d := by
  ext i hi; simp only [rspData, rspWord]; grind

/-- A response word is its two fields (30_encoding.md R69). -/
theorem rspWord_fields (r : RspWord) : rspWord (rspErr r) (rspData r) = r := by
  ext i hi; simp only [rspErr, rspData, rspWord]; grind

/-- Bit `i` of a zero-extended byte (30_encoding.md R65). -/
@[simp] theorem getLsbD_zext32 (b : Byte) (i : Nat) : (zext32 b).getLsbD i = b.getLsbD i := by
  simp only [zext32, BitVec.getLsbD_append]; grind

end Machine

end Sys2Proof
end

