-- ==== Sys2Proof/Laws/Crc.lean ====
section
/-! SUPPORT. Small lemmas of the CRC functions, and of the recurrence. -/

namespace Sys2Proof.Machine

/-- The two branches of a round as one XOR. -/
theorem crcRound_eq_xor (a : Word) : crcRound a = (a >>> 1) ^^^ (if a.getLsbD 0 then poly else 0#32) := by
  unfold crcRound; split <;> simp

/-- The byte step is one XOR and eight rounds. -/
theorem crcStep_eq_eightRounds (a : Word) (b : Byte) : crcStep a b = eightRounds (a ^^^ zext32 b) := rfl

@[simp] theorem crcUpdate_nil (a : Word) : crcUpdate a [] = a := rfl

@[simp] theorem crcUpdate_cons (a : Word) (b : Byte) (bs : List Byte) :
    crcUpdate a (b :: bs) = crcUpdate (crcStep a b) bs := rfl

@[simp] theorem refRun_nil (a : Word) : refRun a [] = (a, []) := rfl

@[simp] theorem refRun_cons (a : Word) (c : CmdWord) (cs : List CmdWord) :
    refRun a (c :: cs) = ((refRun (refStep a c).1 cs).1, (refStep a c).2 :: (refRun (refStep a c).1 cs).2) := rfl

/-- The spec's step function on the three commands. -/
@[simp] theorem refStep_ldacc (a v : Word) : refStep a (encode (.ldacc v)) = (v, rspWord 0#1 v) := by
  simp [refStep]

@[simp] theorem refStep_updb (a : Word) (b : Byte) :
    refStep a (encode (.updb b)) = (crcStep a b, rspWord 0#1 (crcStep a b)) := by
  simp [refStep]

@[simp] theorem refStep_rdacc (a : Word) : refStep a (encode .rdacc) = (a, rspWord 0#1 a) := by
  simp [refStep]

end Sys2Proof.Machine
end

