-- ==== Sys2Proof/Laws/State.lean ====
section
/-! SUPPORT. What each update of the state does to each field, one lemma per field per update. -/

namespace Sys2Proof.Machine

variable (s : State)

@[simp] theorem State.writeAcc_acc (v : Word) : (s.writeAcc v).acc = v := rfl
@[simp] theorem State.writeAcc_inbox (v : Word) : (s.writeAcc v).inbox = s.inbox := rfl
@[simp] theorem State.writeAcc_responses (v : Word) : (s.writeAcc v).responses = s.responses := rfl
@[simp] theorem State.writeAcc_unitNo (v : Word) : (s.writeAcc v).unitNo = s.unitNo := rfl
@[simp] theorem State.writeAcc_resetNo (v : Word) : (s.writeAcc v).resetNo = s.resetNo := rfl

@[simp] theorem State.respond_acc (e : BitVec 1) (d : Word) : (s.respond e d).acc = s.acc := rfl
@[simp] theorem State.respond_inbox (e : BitVec 1) (d : Word) : (s.respond e d).inbox = s.inbox := rfl
@[simp] theorem State.respond_responses (e : BitVec 1) (d : Word) : (s.respond e d).responses = s.responses ++ [rspWord e d] := rfl
@[simp] theorem State.respond_unitNo (e : BitVec 1) (d : Word) : (s.respond e d).unitNo = s.unitNo := rfl
@[simp] theorem State.respond_resetNo (e : BitVec 1) (d : Word) : (s.respond e d).resetNo = s.resetNo := rfl

@[simp] theorem State.raiseIllegalCommand_acc : (s.raiseIllegalCommand).acc = s.acc := rfl
@[simp] theorem State.raiseIllegalCommand_inbox : (s.raiseIllegalCommand).inbox = s.inbox := rfl
@[simp] theorem State.raiseIllegalCommand_responses : (s.raiseIllegalCommand).responses = s.responses ++ [rspWord 1#1 s.acc] := rfl
@[simp] theorem State.raiseIllegalCommand_unitNo : (s.raiseIllegalCommand).unitNo = s.unitNo := rfl
@[simp] theorem State.raiseIllegalCommand_resetNo : (s.raiseIllegalCommand).resetNo = s.resetNo := rfl

@[simp] theorem State.resetEvent_acc : (s.resetEvent).acc = Config.accReset s.unitNo (s.resetNo + 1) s.acc := rfl
@[simp] theorem State.resetEvent_inbox : (s.resetEvent).inbox = s.inbox := rfl
@[simp] theorem State.resetEvent_responses : (s.resetEvent).responses = [] := rfl
@[simp] theorem State.resetEvent_unitNo : (s.resetEvent).unitNo = s.unitNo := rfl
@[simp] theorem State.resetEvent_resetNo : (s.resetEvent).resetNo = s.resetNo + 1 := rfl

@[simp] theorem State.withInbox_acc (l : List HostEvent) : (s.withInbox l).acc = s.acc := rfl
@[simp] theorem State.withInbox_inbox (l : List HostEvent) : (s.withInbox l).inbox = l := rfl
@[simp] theorem State.withInbox_responses (l : List HostEvent) : (s.withInbox l).responses = s.responses := rfl
@[simp] theorem State.withInbox_unitNo (l : List HostEvent) : (s.withInbox l).unitNo = s.unitNo := rfl
@[simp] theorem State.withInbox_resetNo (l : List HostEvent) : (s.withInbox l).resetNo = s.resetNo := rfl

@[simp] theorem State.readAcc_eq : s.readAcc = s.acc := rfl

@[simp] theorem State.withInbox_self : s.withInbox s.inbox = s := rfl

@[simp] theorem State.withInbox_withInbox (l m : List HostEvent) : (s.withInbox l).withInbox m = s.withInbox m := rfl

/-- Two states with the same fields are the same state. -/
theorem State.ext_fields {s t : State} (ha : s.acc = t.acc) (hi : s.inbox = t.inbox) (hr : s.responses = t.responses)
    (hu : s.unitNo = t.unitNo) (hn : s.resetNo = t.resetNo) : s = t := by
  cases s; cases t; simp_all

end Sys2Proof.Machine
end

