-- ==== Sys2Proof/Laws/Ops.lean ====
section
/-! SUPPORT. What each operation over a command or an event can do, said once: later proofs cite these and do not unfold
the dispatch, the decoder or the step. -/

namespace Sys2Proof.Machine

/-- Everything a command can do: it answers a next state in which `ACC` and one more response differ, and nothing else. -/
theorem exec_cases (i : Instr) (s : State) : ∃ (a : Word),
    exec i s = .next { s with acc := a, responses := s.responses ++ [rspWord 0#1 a] } ∧
      (i = .rdacc → a = s.acc) ∧ (∀ v, i = .ldacc v → a = v) ∧ (∀ b, i = .updb b → a = crcStep s.acc b) := by
  cases i with
  | ldacc v => exact ⟨v, rfl, by simp, by simp, by simp⟩
  | updb b => exact ⟨crcStep s.acc b, rfl, by simp, by simp, by simp⟩
  | rdacc => exact ⟨s.acc, rfl, by simp, by simp, by simp⟩

/-- A legal word runs the command it decodes to. -/
theorem runCommand_legal {w : CmdWord} {i : Instr} (h : decode w = .ok i) (s : State) :
    runCommand w s = exec i s := by
  simp [runCommand, h]

/-- A word that spells no command takes `IllegalCommand`. -/
theorem runCommand_illegal {w : CmdWord} {c : IllegalClass} (h : decode w = .error c) (s : State) :
    runCommand w s = .next s.raiseIllegalCommand := by
  simp [runCommand, h]

/-- Everything a command word can do, legal or not: it answers a next state in which `ACC` and one more response, whose
`DATA` is that `ACC`, differ, and nothing else; on an `ERR` the accumulator is the old one. -/
theorem runCommand_cases (w : CmdWord) (s : State) : ∃ (e : BitVec 1) (a : Word),
    runCommand w s = .next { s with acc := a, responses := s.responses ++ [rspWord e a] } ∧
      (isLegal w = true ∧ e = 0#1 ∨ isLegal w = false ∧ e = 1#1 ∧ a = s.acc) := by
  cases h : decode w with
  | ok i =>
    obtain ⟨a, ha, -⟩ := exec_cases i s
    exact ⟨0#1, a, by rw [runCommand_legal h, ha], .inl ⟨by simp [isLegal, h], rfl⟩⟩
  | error c => exact ⟨1#1, s.acc, by rw [runCommand_illegal h]; rfl, .inr ⟨by simp [isLegal, h], rfl, rfl⟩⟩

/-- A command reads and writes nothing of what the host has still to do. -/
theorem runCommand_withInbox (w : CmdWord) (s t : State) (l : List HostEvent) (h : runCommand w s = .next t) :
    runCommand w (s.withInbox l) = .next (t.withInbox l) := by
  cases hd : decode w with
  | ok i =>
    rw [runCommand_legal hd] at h ⊢
    cases i <;> (cases h; rfl)
  | error c =>
    rw [runCommand_illegal hd] at h ⊢
    cases h; rfl

/-- Every event of the host is answered. -/
theorem runEvent_answers (e : HostEvent) (s : State) : ∃ t, runEvent e s = .next t := by
  cases e with
  | command w => obtain ⟨e, a, h, -⟩ := runCommand_cases w s; exact ⟨_, h⟩
  | idle => exact ⟨s, rfl⟩
  | reset => exact ⟨s.resetEvent, rfl⟩

/-- An event reads and writes nothing of what the host has still to do. -/
theorem runEvent_withInbox {e : HostEvent} {s t : State} (l : List HostEvent) (h : runEvent e s = .next t) :
    runEvent e (s.withInbox l) = .next (t.withInbox l) := by
  cases e with
  | command w => exact runCommand_withInbox w s t l h
  | idle => cases h; rfl
  | reset => cases h; rfl

/-- An event leaves the host's list and the engine's number. -/
theorem runEvent_keeps {e : HostEvent} {s t : State} (h : runEvent e s = .next t) :
    t.inbox = s.inbox ∧ t.unitNo = s.unitNo := by
  cases e with
  | command w =>
    obtain ⟨e, a, h', -⟩ := runCommand_cases w s
    rw [runEvent, h'] at h
    cases h; exact ⟨rfl, rfl⟩
  | idle => cases h; exact ⟨rfl, rfl⟩
  | reset => cases h; exact ⟨rfl, rfl⟩

/-- With nothing from the host, a step leaves the state. -/
theorem step_of_nil {s : State} (h : s.inbox = []) : step s = .next s := by
  simp [step, h]

/-- A step takes the host's first event and runs it. -/
theorem step_of_cons {s : State} {e : HostEvent} {rest : List HostEvent} (h : s.inbox = e :: rest) :
    step s = runEvent e (s.withInbox rest) := by
  simp [step, h]

/-- `withFetchWord` makes the table's word the next command. -/
theorem step_withFetchWord (s : State) (nbits w : Nat) :
    step (s.withFetchWord nbits w) = runCommand (tableWord nbits w) s := by
  rfl

end Sys2Proof.Machine
end

