-- ==== Sys2Proof/Laws/PerInstr.lean ====
section
/-! SUPPORT. For every command as syntax: its encoding fits its row of the opcode map and no other, and its operand is in
the range the assembler allows. -/

namespace Sys2Proof.Laws.EncodingFitsItsRow

/-- The word of a command fits the command's row of the opcode map (30_encoding.md R66), and the command is well formed
(R72). -/
def Statement (i : Instr) : Prop := i.row.fits (encode i) = true ∧ i.wellFormed = true

theorem ldacc (v : Word) : Statement (.ldacc v) := by
  constructor
  · have h : encode (.ldacc v) &&& 0xF00000000#36 = 0x100000000#36 := by
      ext i hi
      by_cases h32 : i < 32
      · have h1 : (0xF00000000#36)[i] = false := by revert i; decide
        have h2 : (0x100000000#36)[i] = false := by revert i; decide
        simp [h1, h2]
      · simp only [encode, BitVec.getElem_and, BitVec.getElem_append, h32, dite_false]
        obtain rfl | rfl | rfl | rfl : i = 32 ∨ i = 33 ∨ i = 34 ∨ i = 35 := by omega
        all_goals simp
    simp [OpcodeRow.fits, Instr.row, h]
  · have := v.isLt
    simp [Instr.wellFormed, Instr.operandRange]; omega

theorem updb (b : Byte) : Statement (.updb b) := by
  constructor
  · revert b; decide
  · revert b; decide

theorem rdacc : Statement .rdacc := ⟨by decide, by decide⟩

end Sys2Proof.Laws.EncodingFitsItsRow
end

