-- ==== Sys2Proof/Laws/Ports.lean ====
section
/-! SUPPORT. What one clock cycle can do, said once. -/

namespace Sys2Proof.Machine

/-- A cycle is its event of the transaction level, with the ports moved on. -/
theorem cycle_of_event {p : PortState} {i : PortIn} {t : State} (h : runEvent (p.event i) p.engine = .next t) :
    cycle p i = .next (⟨t, p.nextInProgress i, p.nextWait i, p.cycleNo + 1⟩, p.outputs i t) := by
  simp [cycle, h]

/-- Every cycle answers. -/
theorem cycle_answers (p : PortState) (i : PortIn) : ∃ q o, cycle p i = .next (q, o) := by
  obtain ⟨t, h⟩ := runEvent_answers (p.event i) p.engine
  exact ⟨_, _, cycle_of_event h⟩

/-- Cycles with one more input in front run that cycle first. -/
theorem runPorts_cons {p q q' : PortState} {i : PortIn} {o : PortOut} {is : List PortIn} {os : List PortOut}
    (h : cycle p i = .next (q, o)) (hs : runPorts is q = .next (q', os)) :
    runPorts (i :: is) p = .next (q', o :: os) := by
  simp [runPorts, h, hs]

/-- Without reset, a cycle in which no command is answered is idle. -/
theorem event_idle {p : PortState} {i : PortIn} (hr : i.rst = false) (h : p.answers i = none) : p.event i = .idle := by
  simp [PortState.event, hr, h]

/-- Without reset, a cycle in which a command is answered is that command. -/
theorem event_command {p : PortState} {i : PortIn} {w : CmdWord} (hr : i.rst = false) (h : p.answers i = some w) :
    p.event i = .command w := by
  simp [PortState.event, hr, h]

/-- In a reset cycle, the event is the reset. -/
theorem event_reset {p : PortState} {i : PortIn} (hr : i.rst = true) : p.event i = .reset := by
  simp [PortState.event, hr]

end Sys2Proof.Machine
end

