-- ==== Sys2Proof/Laws/Run.lean ====
section
/-! SUPPORT. Runs, one event at a time. -/

namespace Sys2Proof.Machine

/-- The first of several steps, once it is known. -/
theorem stepN_succ_of_next {s t : State} (h : step s = .next t) (n : Nat) : stepN (n + 1) s = stepN n t := by
  simp [stepN, h]

/-- A run with one more event in front runs that event first. -/
theorem runEvents_cons {e : HostEvent} {s t : State} (h : runEvent e s = .next t) (es : List HostEvent) :
    runEvents (e :: es) s = runEvents es t := by
  have hstep : step (s.withInbox (e :: es ++ s.inbox)) = .next (t.withInbox (es ++ t.inbox)) := by
    rw [step_of_cons (e := e) (rest := es ++ s.inbox) (by simp), State.withInbox_withInbox, (runEvent_keeps h).1]
    exact runEvent_withInbox _ h
  exact stepN_succ_of_next hstep _

@[simp] theorem runEvents_nil (s : State) : runEvents [] s = .next s := rfl

@[simp] theorem runCommands_nil (s : State) : runCommands [] s = .next s := rfl

/-- A run with one more command in front runs that command first. -/
theorem runCommands_cons {w : CmdWord} {s t : State} (h : runCommand w s = .next t) (cs : List CmdWord) :
    runCommands (w :: cs) s = runCommands cs t :=
  runEvents_cons (e := .command w) h _

/-- Every run of the host's events is answered to its end. -/
theorem runEvents_answers (es : List HostEvent) (s : State) : ∃ t, runEvents es s = .next t := by
  induction es generalizing s with
  | nil => exact ⟨s, rfl⟩
  | cons e es ih =>
    obtain ⟨t, h⟩ := runEvent_answers e s
    rw [runEvents_cons h]
    exact ih t

/-- Two runs one after the other are one run. -/
theorem runEvents_append {es : List HostEvent} {s t : State} (h : runEvents es s = .next t) (fs : List HostEvent) :
    runEvents (es ++ fs) s = runEvents fs t := by
  induction es generalizing s with
  | nil => cases h; rfl
  | cons e es ih =>
    obtain ⟨u, hu⟩ := runEvent_answers e s
    rw [runEvents_cons hu] at h
    rw [List.cons_append, runEvents_cons hu]
    exact ih h

/-- Two lists of commands one after the other are one list. -/
theorem runCommands_append {cs : List CmdWord} {s t : State} (h : runCommands cs s = .next t) (ds : List CmdWord) :
    runCommands (cs ++ ds) s = runCommands ds t := by
  rw [runCommands, List.map_append, runEvents_append h, runCommands]

end Sys2Proof.Machine
end

