-- ==== Sys2Proof/Tests/Slice0.lean ====
section
/-! SUPPORT. The model's own tests, expected results from spec/95_test_vectors.md and 30_encoding.md, and for every statement
with hypotheses a witness that meets them. -/

open Sys2Proof Sys2Proof.Machine

namespace Sys2Proof.Tests

/-- An engine whose accumulator is `a` and whose host has `evs` still to do. -/
def engineAt (a : Word) (evs : List HostEvent := []) : State := ⟨a, evs, [], 0, 0⟩

/-- The accumulator and the responses after an outcome that is a next state. -/
def shown : Host.Outcome State Fault Refusal → Option (Word × List RspWord)
  | .next t => some (t.acc, t.responses)
  | _ => none

/-! ### Decoding: words written out bit by bit from 30_encoding.md R66 -/

theorem test_decode_ldacc_bits :
    decode 0b000111011110101011011011111011101111#36 = .ok (.ldacc 0xDEADBEEF#32) := by decide

theorem test_decode_updb_bits :
    decode 0b001000000000000000000000000001010100#36 = .ok (.updb 0x54#8) := by decide

theorem test_decode_rdacc_bits :
    decode 0b001100000000000000000000000000000000#36 = .ok .rdacc := by decide

/-- 95_test_vectors.md 2.5: the smallest illegal word above the `UPDB` range, and the largest legal one. -/
theorem test_decode_updb_edge :
    decode 0x200000100#36 = .error .updbReservedBits ∧ decode 0x2000000FF#36 = .ok (.updb 0xFF#8) := by decide

theorem test_decode_rdacc_edge :
    decode 0x380000000#36 = .error .rdaccReservedBits ∧ decode 0x300000001#36 = .error .rdaccReservedBits := by decide

theorem test_decode_reserved_opcodes :
    decode 0x0FFFFFFFF#36 = .error .reservedOpcodeZero ∧ decode 0x400000000#36 = .error .reservedOpcodeHigh ∧
      decode 0xFFFFFFFFF#36 = .error .reservedOpcodeHigh := by decide

theorem test_table_word : decodeTableWord 40 0x300000000 = some .rdacc ∧ decodeTableWord 40 0x1300000000 = none := by
  decide

/-! ### Well-formedness: an ill-formed term for each check -/

theorem test_ldacc_operand_out_of_range : (SourceLine.ldacc 0x100000000).wellFormed = false := by decide

theorem test_updb_operand_out_of_range : (SourceLine.updb (.num 0x100)).wellFormed = false := by decide

theorem test_updb_character_not_ascii : (SourceLine.updb (.chr 'é')).wellFormed = false := by decide

theorem test_word_out_of_range : (SourceLine.dotWord 0x1000000000).wellFormed = false := by decide

theorem test_update_byte_out_of_range : (SourceLine.update [.num 1, .num 0x100]).wellFormed = false := by decide

theorem test_update_text_not_ascii : (SourceLine.updateText ['a', 'é']).wellFormed = false := by decide

theorem test_restore_out_of_range : (SourceLine.restore 0x100000000).wellFormed = false := by decide

theorem test_commands_well_formed :
    (Instr.ldacc 0xFFFFFFFF#32).wellFormed = true ∧ (Instr.updb 0xFF#8).wellFormed = true := by decide

/-! ### One step per command (95_test_vectors.md 2.1, 2.2, 2.5) -/

theorem test_ldacc : shown (exec (.ldacc 0xFFFFFFFF#32) (engineAt 0x12345678#32)) =
    some (0xFFFFFFFF#32, [0x0FFFFFFFF#33]) := by decide

theorem test_updb_first_fox_byte : shown (exec (.updb 0x54#8) (engineAt 0xFFFFFFFF#32)) =
    some (0x41FB859F#32, [0x041FB859F#33]) := by decide

theorem test_updb_high_byte : shown (exec (.updb 0xAB#8) (engineAt 0x12345678#32)) =
    some (0x1FC8B738#32, [0x01FC8B738#33]) := by decide

theorem test_rdacc : shown (exec .rdacc (engineAt 0xBEB05CC6#32)) =
    some (0xBEB05CC6#32, [0x0BEB05CC6#33]) := by decide

theorem test_illegal_word_folds_nothing :
    shown (step (engineAt 0x174841BC#32 [.command 0x200000162#36])) =
      some (0x174841BC#32, [0x1174841BC#33]) := by decide

theorem test_step_from_reset : ∃ t, step (State.reset.withFetchWord 40 0x1DEADBEEF) = .next t ∧
    t.acc = 0xDEADBEEF#32 ∧ t.responses = [0x0DEADBEEF#33] := ⟨_, rfl, by decide, by decide⟩

/-! ### Rounds, table, assembler -/

/-- 95_test_vectors.md 2.2, row 1: the second of the eight rounds. -/
theorem test_round : crcRound 0xFFFFFFAB#32 = 0x92477CF5#32 ∧ crcRound 0xA49B3D5A#32 = 0x524D9EAD#32 := by decide

/-- 95_test_vectors.md 1.2: the constant is `0x04C11DB7` with its 32 bits in reverse order (00_scope.md R2). -/
theorem test_poly_is_reflected : ∀ i : Fin 32, poly.getLsbD i = (0x04C11DB7#32).getLsbD (31 - i) := by decide

/-- 95_test_vectors.md 2.2, inverse rounds. -/
theorem test_round_inverse : crcRoundInv 0x92477CF5#32 = 0xFFFFFFAB#32 ∧ crcRoundInv 0xEDB88320#32 = 0x00000001#32 := by
  decide

/-- 95_test_vectors.md 2.4, row 1. -/
theorem test_table_step : crcTableAt 0xD3#8 = 0x1FDA836E#32 ∧ crcStepTable 0x12345678#32 0xAB#8 = 0x1FC8B738#32 := by
  decide

/-- 95_test_vectors.md 2.6: `UPDB 'T'` with a comment. -/
theorem test_read_updb_line :
    readLine [' ', 'U', 'P', 'D', 'B', ' ', '\'', 'T', '\'', ' ', '#', 'x'] = some (some (.updb (.chr 'T'))) ∧
      assembleLine (.updb (.chr 'T')) = some [0x200000054#36] := by decide

/-- 95_test_vectors.md 2.6: `UPDATE 0x01, 0x02`. -/
theorem test_read_update_line :
    (readLine ['U', 'P', 'D', 'A', 'T', 'E', ' ', '0', 'x', '0', '1', ',', ' ', '2']) =
      some (some (.update [.num 1, .num 2])) ∧
      assembleLine (.update [.num 1, .num 2]) = some [0x200000001#36, 0x200000002#36] := by decide

/-- 95_test_vectors.md 2.6: `UPDATE "abc"`, `UPDATE ""` and `INIT`; an unknown mnemonic is no line. -/
theorem test_read_text_line :
    (readLine ['U', 'P', 'D', 'A', 'T', 'E', ' ', '"', 'a', 'b', 'c', '"']) = some (some (.updateText ['a', 'b', 'c'])) ∧
      assembleLine (.updateText ['a', 'b', 'c']) = some [0x200000061#36, 0x200000062#36, 0x200000063#36] ∧
      assembleLine (.updateText []) = some [] ∧ assembleLine .init = some [0x1FFFFFFFF#36] ∧
      readLine ['u', 'p', 'd', 'b', ' ', '1'] = none := by decide

/-! ### Witnesses: a state and operands that meet the hypotheses of each statement that has any -/

/-- IllegalWordsByClass, DisassemblyInvertsAssembly: a word of every class, and a legal one. -/
theorem witness_illegal_classes :
    (∃ w, decode w = .error .reservedOpcodeZero) ∧ (∃ w, decode w = .error .reservedOpcodeHigh) ∧
      (∃ w, decode w = .error .updbReservedBits) ∧ (∃ w, decode w = .error .rdaccReservedBits) ∧
      (∃ w, decode w = .ok .rdacc) :=
  ⟨⟨0x000000000#36, by decide⟩, ⟨0x400000000#36, by decide⟩, ⟨0x200000100#36, by decide⟩,
    ⟨0x300000001#36, by decide⟩, ⟨0x300000000#36, by decide⟩⟩

/-- WordsDecodeByTheirOpcodeRow: a word that fits a row. -/
theorem witness_row : ∃ r ∈ opcodeMap, r.fits 0x2000000FF#36 = true := ⟨(Instr.updb 0).row, by decide, by decide⟩

/-- PseudoInstructionsExpand: a text of ASCII characters, the largest among them. -/
theorem witness_ascii_text : ∀ c ∈ ['a', '\x7f'], c.toNat < 0x80 := by simp

/-- LdaccWritesAcc, RdaccReturnsAcc, UpdbFoldsOneByte: words with the opcode, and with a reserved bit set. -/
theorem witness_opcode_words :
    cmdOp 0x100000000#36 = 0x1#4 ∧
      (cmdOp 0x380000000#36 = 0x3#4 ∧ (0x380000000#36).extractLsb' 0 32 ≠ 0#32) ∧
      (cmdOp 0x200000100#36 = 0x2#4 ∧ (0x200000100#36).extractLsb' 8 24 ≠ 0#24) := by decide

/-- UpdbCornerCases: two accumulators with the same result for one byte. -/
theorem witness_same_result : crcStep 0x00000000#32 0xFF#8 = crcStep (0x000000AA#32 ^^^ 0x000000AA#32) 0xFF#8 := by
  decide

/-- StepRunsTheDecodedCommand, StepIsTheSpecStepFunction: a state whose next event is a legal word, and an illegal one. -/
theorem witness_next_command :
    (engineAt 0 [.command 0x200000062#36, .idle]).inbox = [.command 0x200000062#36, .idle] ∧
      decode 0x200000062#36 = .ok (.updb 0x62#8) ∧ decode 0x200000162#36 = .error .updbReservedBits := by decide

/-- IllegalCommandChangesNothing: a word that matches no row, and one that matches a row. -/
theorem witness_no_row : (∀ r ∈ opcodeMap, 0xF12345678#36 &&& r.mask ≠ r.pattern) ∧
    ∃ r ∈ opcodeMap, 0x2000000FF#36 &&& r.mask = r.pattern := by decide

/-- OnlyLoadUpdateAndResetWriteAcc: a step by `LDACC` and one by `UPDB` that change the accumulator. -/
theorem witness_step_writes_acc :
    (∃ t, step (engineAt 0 [.command 0x100000005#36]) = .next t ∧ t.acc ≠ 0) ∧
      (∃ t, step (engineAt 0 [.command 0x200000001#36]) = .next t ∧ t.acc ≠ 0) :=
  ⟨⟨_, rfl, by decide⟩, ⟨_, rfl, by decide +kernel⟩⟩

/-- IdleTimeChangesNothing, ResetDrawsAccReset: a host with nothing to do, one that pauses, one that resets. -/
theorem witness_idle_and_reset :
    (engineAt 7).inbox = [] ∧ (engineAt 7 [.idle, .reset]).inbox = [.idle, .reset] ∧
      (engineAt 7 [.reset]).inbox = [.reset] := by decide

/-- StepKeepsConsistency: a consistent state with a legal and an error response, about to run a command. -/
theorem witness_consistent :
    (State.consistent ⟨5, [.command 0x200000001#36], [rspWord 0 5, rspWord 1 5], 0, 0⟩) = true ∧
      ∃ t, step ⟨5, [.command 0x200000001#36], [rspWord 0 5, rspWord 1 5], 0, 0⟩ = .next t :=
  ⟨by decide, _, rfl⟩

/-- OnlyAccIsObservable: two states that agree on the accumulator and on nothing else. -/
theorem witness_same_acc : (⟨9, [.reset], [rspWord 0 1], 1, 2⟩ : State).acc = (engineAt 9).acc := by decide

/-- SideEffectsAndIdempotency, IllegalWordsInARow: the accumulator of the example, and a word of each illegal class. -/
theorem witness_illegal_words :
    (engineAt 0xFFFFFFFF#32).acc = 0xFFFFFFFF#32 ∧
      ∀ w ∈ [0x000000000#36, 0x400000000#36, 0x200000100#36, 0x300000001#36], isLegal w = false :=
  ⟨rfl, List.forall_mem_cons.2 ⟨by decide, List.forall_mem_cons.2 ⟨by decide, List.forall_mem_cons.2 ⟨by decide,
    List.forall_mem_cons.2 ⟨by decide, by simp⟩⟩⟩⟩⟩

/-- CleanRunsHaveOnlyLegalWords: a clean state that has answered. -/
theorem witness_clean : (State.clean ⟨5, [], [rspWord 0 5], 0, 0⟩) = true := by decide

/-- RoundBitByBit: a value with bit 0 set and one without, and the ends of the range of `i`. -/
theorem witness_round_bits :
    (0x00000001#32).getLsbD 0 = true ∧ (0x80000000#32).getLsbD 0 = false ∧ 0 ≤ 30 ∧ 30 ≤ 30 := by decide

/-- ByteMeetsLowBitsThenEightRounds: the bits on both sides of the boundary. -/
theorem witness_byte_boundary : 7 < 8 ∧ 8 ≤ 8 ∧ 8 ≤ 31 := by decide

/-- UpdateRunFoldsTheSequence: a sequence of one byte. -/
theorem witness_nonempty_sequence : [0x61#8] ≠ [] := by decide

/-- StreamSurvivesPausesReadsAndErrors: bytes with a pause, a read and an illegal word among them. -/
theorem witness_stream :
    HostEvent.reset ∉ [HostEvent.command 0x200000061#36, .idle, .command 0x300000000#36, .command 0xF00000000#36] ∧
      ∀ v : Word, HostEvent.command (encode (.ldacc v)) ∉
        [HostEvent.command 0x200000061#36, .idle, .command 0x300000000#36, .command 0xF00000000#36] := by
  refine ⟨by decide, fun v h => ?_⟩
  have hop : ∀ w, encode (.ldacc v) = w → cmdOp w = 0x1#4 := by rintro w rfl; simp
  simp only [List.mem_cons, HostEvent.command.injEq, reduceCtorEq, List.not_mem_nil, or_false, false_or] at h
  rcases h with h | h | h <;> exact absurd (hop _ h) (by decide)

/-- Ports with nothing in progress, ready at once. -/
def portsAtRest : PortState := ⟨engineAt 0, none, 0, 0⟩

/-- CycleDeliversTheSpecResponse, PortTraceMeetsTheRecurrence, ResetCycleAbandonsTheCommand: a cycle in which a command is
offered, without and with reset, and ports with nothing in progress. -/
theorem witness_port_inputs :
    (∀ i ∈ [(⟨false, true, 0x200000061#36⟩ : PortIn)], i.rst = false) ∧ portsAtRest.inProgress = none ∧
      (⟨true, true, 0x200000061#36⟩ : PortIn).rst = true := by decide

/-- AcceptedCommandIsAnswered: a command with one cycle left, and one in its response cycle. -/
theorem witness_in_progress :
    (⟨engineAt 0, some ⟨0x200000061#36, 1⟩, 0, 0⟩ : PortState).inProgress =
        some ⟨0x200000061#36, [(⟨false, true, 0x300000000#36⟩ : PortIn)].length⟩ ∧
      (⟨engineAt 0, some ⟨0x200000061#36, 0⟩, 0, 0⟩ : PortState).inProgress =
        some ⟨0x200000061#36, ([] : List PortIn).length⟩ := by decide

/-- OfferedCommandIsAccepted, CycleKeepsTheBounds: ports within their bounds, and a cycle from them. -/
theorem witness_bounded : portsAtRest.bounded ∧
    ∃ q o, cycle portsAtRest ⟨false, true, 0x200000061#36⟩ = .next (q, o) :=
  ⟨⟨Nat.zero_le _, fun _ h => by cases h⟩, cycle_answers _ _⟩

/-- EnginesShareNothing: a platform with two engines. -/
theorem witness_platform : ([engineAt 1, engineAt 2] : Platform)[1]? = some (engineAt 2) := by decide

end Sys2Proof.Tests
end

section
/-! SUPPORT and PROOF. A command word runs as the spec's step function says, and a run of words as its recurrence
(20_memory.md R49, 30_encoding.md R68). -/

namespace Sys2Proof.Machine

/-- What a command word does is the spec's step function applied to `ACC` and the word, with everything else left alone
(30_encoding.md R68): one case per line of that function. -/
theorem runCommand_eq_refStep (w : CmdWord) (s : State) :
    runCommand w s = .next { s with
      acc := (refStep s.acc w).1
      responses := s.responses ++ [(refStep s.acc w).2] } := by
  by_cases hld : cmdOp w = 0x1#4
  · have hd : decode w = .ok (.ldacc (cmdArg w)) := by simp [decode, hld]
    have hr : refStep s.acc w = (cmdArg w, rspWord 0#1 (cmdArg w)) := by simp [refStep, hld]
    rw [runCommand_legal hd, hr]; rfl
  by_cases hup : cmdOp w = 0x2#4 ∧ cmdZero24 w = 0#24
  · have hd : decode w = .ok (.updb (cmdImm8 w)) := by simp [decode, hup]
    have hr : refStep s.acc w = (crcStep s.acc (cmdImm8 w), rspWord 0#1 (crcStep s.acc (cmdImm8 w))) := by
      simp [refStep, hup]
    rw [runCommand_legal hd, hr]; rfl
  by_cases hrd : cmdOp w = 0x3#4 ∧ cmdArg w = 0#32
  · have hd : decode w = .ok .rdacc := by simp [decode, hrd]
    have hr : refStep s.acc w = (s.acc, rspWord 0#1 s.acc) := by simp [refStep, hrd]
    rw [runCommand_legal hd, hr]; rfl
  · obtain ⟨c, hd⟩ : ∃ c, decode w = .error c := by
      rw [not_and] at hup hrd
      unfold decode
      split_ifs <;> simp_all
    have hr : refStep s.acc w = (s.acc, rspWord 1#1 s.acc) := by simp [refStep, hld, hup, hrd]
    rw [runCommand_illegal hd, hr]; rfl

/-- Settles O26, by induction on the list of words: the first word is one step of the recurrence, and the rest runs from
the accumulator it leaves. -/
theorem runIsTheRecurrence : Obligations.RunIsTheRecurrence := by
  intro cs
  induction cs with
  | nil => intro s; simp
  | cons c cs ih =>
    intro s
    rw [runCommands_cons (runCommand_eq_refStep c s), ih]
    simp

end Sys2Proof.Machine
end

section
/-! SUPPORT and PROOF. The rows of the opcode map as conditions on the fields of a word (30_encoding.md R66), the classes
of illegal words (R67), and what one command or one step answers (R68, R69). -/

namespace Sys2Proof

/-- A concatenation of two fields determines both of them. -/
theorem bitVec_append_inj {m n : Nat} {x x' : BitVec m} {y y' : BitVec n} :
    x ++ y = x' ++ y' ↔ x = x' ∧ y = y' := by
  refine ⟨fun h => ?_, fun ⟨hx, hy⟩ => by rw [hx, hy]⟩
  have hx := congrArg (BitVec.extractLsb' n m) h
  have hy := congrArg (BitVec.extractLsb' 0 n) h
  rw [BitVec.extractLsb'_append_eq_left, BitVec.extractLsb'_append_eq_left] at hx
  rw [BitVec.extractLsb'_append_eq_right, BitVec.extractLsb'_append_eq_right] at hy
  exact ⟨hx, hy⟩

/-- A mask and a pattern on a command word are a mask and a pattern on each of its fields (30_encoding.md R61). -/
theorem cmdWord_and_eq_iff (w : CmdWord) (maskOp op : BitVec 4) (maskArg arg : Word) :
    w &&& (maskOp ++ maskArg) = op ++ arg ↔ cmdOp w &&& maskOp = op ∧ cmdArg w &&& maskArg = arg := by
  conv_lhs => rw [cmdWord_eq_fields w, BitVec.and_append, bitVec_append_inj]

/-- A mask and a pattern on an argument are a mask and a pattern on `ZERO24` and `IMM8` (30_encoding.md R63). -/
theorem cmdArg_and_eq_iff (w : CmdWord) (maskZero zero : BitVec 24) (maskImm imm : Byte) :
    cmdArg w &&& (maskZero ++ maskImm) = zero ++ imm ↔
      cmdZero24 w &&& maskZero = zero ∧ cmdImm8 w &&& maskImm = imm := by
  rw [cmdArg_eq_fields, BitVec.and_append, bitVec_append_inj]

/-- The row of `LDACC` tests the opcode alone (30_encoding.md R66). -/
theorem and_ldaccMask_eq_iff (w : CmdWord) : w &&& 0xF00000000#36 = 0x100000000#36 ↔ cmdOp w = 0x1#4 := by
  have h := cmdWord_and_eq_iff w (.allOnes 4) 0x1#4 0#32 0#32
  rwa [BitVec.and_allOnes, BitVec.and_zero, and_iff_left rfl] at h

/-- The row of `UPDB` tests the opcode and `ZERO24` (30_encoding.md R66). -/
theorem and_updbMask_eq_iff (w : CmdWord) :
    w &&& 0xFFFFFFF00#36 = 0x200000000#36 ↔ cmdOp w = 0x2#4 ∧ cmdZero24 w = 0#24 := by
  have h := cmdWord_and_eq_iff w (.allOnes 4) 0x2#4 (BitVec.allOnes 24 ++ 0#8) (0#24 ++ 0#8)
  rwa [cmdArg_and_eq_iff, BitVec.and_allOnes, BitVec.and_allOnes, BitVec.and_zero, and_iff_left rfl] at h

/-- The row of `RDACC` tests the whole word (30_encoding.md R66). -/
theorem and_rdaccMask_eq_iff (w : CmdWord) :
    w &&& 0xFFFFFFFFF#36 = 0x300000000#36 ↔ cmdOp w = 0x3#4 ∧ cmdArg w = 0#32 := by
  have h := cmdWord_and_eq_iff w (.allOnes 4) 0x3#4 (.allOnes 32) 0#32
  rwa [BitVec.and_allOnes, BitVec.and_allOnes] at h

/-- The condition of each class of illegal words (30_encoding.md R67). -/
def IllegalClass.covers : IllegalClass → CmdWord → Prop
  | .reservedOpcodeZero, w => cmdOp w = 0x0#4
  | .reservedOpcodeHigh, w => 0x4 ≤ (cmdOp w).toNat
  | .updbReservedBits, w => cmdOp w = 0x2#4 ∧ cmdZero24 w ≠ 0#24
  | .rdaccReservedBits, w => cmdOp w = 0x3#4 ∧ cmdArg w ≠ 0#32

/-- An opcode is one of the four below `0x4`, or at least `0x4`. -/
theorem opcode_cases (op : BitVec 4) :
    op = 0x0#4 ∨ op = 0x1#4 ∨ op = 0x2#4 ∨ op = 0x3#4 ∨ 0x4 ≤ op.toNat := by
  revert op; decide

/-- An opcode of at least `0x4` is none of those below. -/
theorem cmdOp_ne_of_high {w : CmdWord} (h : 0x4 ≤ (cmdOp w).toNat) {op : BitVec 4} (hop : op.toNat < 0x4) :
    cmdOp w ≠ op := by
  rintro rfl; omega

/-- The decoder on an opcode of at least `0x4` (30_encoding.md R67). -/
theorem decode_of_high {w : CmdWord} (h : 0x4 ≤ (cmdOp w).toNat) : decode w = .error .reservedOpcodeHigh := by
  simp [decode, cmdOp_ne_of_high h]

/-- The decoder names a class exactly under that class's condition (30_encoding.md R67): one case per opcode it tells
apart. -/
theorem decode_eq_error_iff (w : CmdWord) (c : IllegalClass) : decode w = .error c ↔ c.covers w := by
  obtain h | h | h | h | h := opcode_cases (cmdOp w)
  · cases c <;> simp [decode, IllegalClass.covers, h]
  · cases c <;> simp [decode, IllegalClass.covers, h]
  · by_cases hz : cmdZero24 w = 0#24 <;> cases c <;> simp [decode, IllegalClass.covers, h, hz]
  · by_cases hz : cmdArg w = 0#32 <;> cases c <;> simp [decode, IllegalClass.covers, h, hz]
  · rw [decode_of_high h]
    cases c <;> simp [IllegalClass.covers, h, cmdOp_ne_of_high h]

/-- A word matches no row of the opcode map exactly when its fields meet none of the three rows' conditions
(30_encoding.md R66). -/
theorem no_row_iff (w : CmdWord) : (∀ r ∈ opcodeMap, w &&& r.mask ≠ r.pattern) ↔
    ¬cmdOp w = 0x1#4 ∧ ¬(cmdOp w = 0x2#4 ∧ cmdZero24 w = 0#24) ∧ ¬(cmdOp w = 0x3#4 ∧ cmdArg w = 0#32) := by
  rw [← and_ldaccMask_eq_iff, ← and_updbMask_eq_iff, ← and_rdaccMask_eq_iff]
  simp [opcodeMap, Instr.row]

/-- A word is refused exactly when it matches no row of the opcode map (30_encoding.md R67). -/
theorem exists_decode_error_iff (w : CmdWord) :
    (∃ c, decode w = .error c) ↔ ∀ r ∈ opcodeMap, w &&& r.mask ≠ r.pattern := by
  rw [no_row_iff]
  obtain h | h | h | h | h := opcode_cases (cmdOp w)
  · simp [decode, h]
  · simp [decode, h]
  · by_cases hz : cmdZero24 w = 0#24 <;> simp [decode, h, hz]
  · by_cases hz : cmdArg w = 0#32 <;> simp [decode, h, hz]
  · simp [decode_of_high h, cmdOp_ne_of_high h]

namespace Machine

/-- The response of the spec's step function carries the new accumulator, on each of its four lines (30_encoding.md R68). -/
theorem rspData_refStep (a : Word) (w : CmdWord) : rspData (refStep a w).2 = (refStep a w).1 := by
  unfold refStep
  split_ifs
  all_goals exact rspData_rspWord _ _

/-- Settles O3: the decoder's classes are R67's conditions, the three rows leave exactly those words over, and each of
them takes `IllegalCommand`. -/
theorem illegalWordsByClass : Obligations.IllegalWordsByClass :=
  ⟨fun w => decode_eq_error_iff w .reservedOpcodeZero,
   fun w => decode_eq_error_iff w .reservedOpcodeHigh,
   fun w => decode_eq_error_iff w .updbReservedBits,
   fun w => decode_eq_error_iff w .rdaccReservedBits,
   exists_decode_error_iff,
   fun _ _ s h => runCommand_illegal h s⟩

/-- Settles O13: the step takes the host's event, and the command word then runs as the spec's step function says. -/
theorem stepIsTheSpecStepFunction : Obligations.StepIsTheSpecStepFunction := by
  refine ⟨fun s w rest h => ?_, rspData_refStep⟩
  rw [step_of_cons h]
  exact runCommand_eq_refStep w (s.withInbox rest)

/-- Settles O14, by the two things a command word can do: run a command with `ERR` = 0, or raise `IllegalCommand`. -/
theorem oneResponsePerCommand : Obligations.OneResponsePerCommand := by
  intro w s
  obtain ⟨e, a, hrun, hcase⟩ := runCommand_cases w s
  refine ⟨_, rspWord e a, hrun, rfl, rspData_rspWord e a, ?_⟩
  obtain ⟨hlegal, rfl⟩ | ⟨hillegal, rfl, -⟩ := hcase
  · simp [hlegal]
  · simp [hillegal]

end Machine

end Sys2Proof
end

section
/-! SUPPORT and PROOF. The accumulator access family (40_accumulator_access.md): what `LDACC` and `RDACC` do to the state,
the numbers their words are, and the laws that follow from the recurrence of a run. -/

namespace Sys2Proof

/-- A concatenation as a number: the upper field stands above the lower field's width. -/
theorem toNat_append_eq_add {m n : Nat} (x : BitVec m) (y : BitVec n) :
    (x ++ y).toNat = x.toNat * 2 ^ n + y.toNat := by
  rw [BitVec.toNat_append, ← Nat.shiftLeft_add_eq_or_of_lt y.isLt, Nat.shiftLeft_eq]

/-- The word of `LDACC` as a number (40_accumulator_access.md R80). -/
theorem encode_ldacc_toNat (v : Word) : (encode (.ldacc v)).toNat = 0x100000000 + v.toNat :=
  toNat_append_eq_add 0x1#4 v

/-- The decoder on the opcode of `LDACC`: every argument is legal (40_accumulator_access.md R80). -/
theorem decode_of_cmdOp_ldacc {w : CmdWord} (h : cmdOp w = 0x1#4) : decode w = .ok (.ldacc (cmdArg w)) :=
  if_pos h

namespace Machine

/-- What `LDACC` does to the whole state. -/
theorem exec_ldacc (v : Word) (s : State) :
    exec (.ldacc v) s = .next { s with acc := v, responses := s.responses ++ [rspWord 0#1 v] } := rfl

/-- What `RDACC` does to the whole state. -/
theorem exec_rdacc (s : State) :
    exec .rdacc s = .next { s with responses := s.responses ++ [rspWord 0#1 s.acc] } := rfl

/-- Settles O8: the meaning of `LDACC`, its word as a concatenation of fields, and the decoder's first line. -/
theorem ldaccWritesAcc : Obligations.LdaccWritesAcc :=
  ⟨exec_ldacc, encode_ldacc_toNat, fun _ => decode_of_cmdOp_ldacc⟩

/-- Settles O9: the meaning of `RDACC`, and for a word with a reserved bit set the class R67 names, which takes
`IllegalCommand`. -/
theorem rdaccReturnsAcc : Obligations.RdaccReturnsAcc := by
  refine ⟨exec_rdacc, by decide, fun w s hop harg => ?_⟩
  have hd : decode w = .error .rdaccReservedBits := (decode_eq_error_iff w .rdaccReservedBits).2 ⟨hop, harg⟩
  exact runCommand_illegal hd s

/-- After `LDACC v` the recurrence has forgotten the accumulator it started from (40_accumulator_access.md R80). -/
theorem refRun_ldacc_cons (a v : Word) (cs : List CmdWord) :
    refRun a (encode (.ldacc v) :: cs) = ((refRun v cs).1, rspWord 0#1 v :: (refRun v cs).2) := by
  rw [refRun_cons, refStep_ldacc]

/-- A run of one `RDACC` shows the accumulator and leaves it. -/
theorem runCommands_rdacc (s : State) :
    runCommands [encode .rdacc] s = .next { s with responses := s.responses ++ [rspWord 0#1 s.acc] } := by
  rw [runIsTheRecurrence, refRun_cons, refStep_rdacc, refRun_nil]

/-- Settles O28: the recurrence starts again from `v`, and `RDACC` is its last line. -/
theorem readAfterLoad : Obligations.ReadAfterLoad := by
  intro v s
  rw [runIsTheRecurrence, refRun_ldacc_cons, refRun_cons, refStep_rdacc, refRun_nil]

/-- The host's last `DATA` is that of the response delivered last. -/
theorem lastData_of_responses {s : State} {rs : List RspWord} {e : BitVec 1} {d : Word}
    (h : s.responses = rs ++ [rspWord e d]) : s.lastData = some d := by
  simp [State.lastData, h]

/-- Settles O29: `RDACC` leaves the accumulator and shows it, `LDACC` of that value makes the other accumulator the same,
and the recurrence of the later words starts from nothing else. -/
theorem snapshotRestores : Obligations.SnapshotRestores := by
  intro s
  refine ⟨_, s.acc, runCommands_rdacc s, lastData_of_responses rfl, fun t cs => ?_⟩
  have hload := refRun_ldacc_cons t.acc s.acc cs
  refine ⟨_, _, (refRun s.acc cs).2, runIsTheRecurrence cs _, runIsTheRecurrence _ t, ?_, rfl, ?_⟩
  · rw [hload]
  · rw [hload]

end Machine

end Sys2Proof
end

section
/-! SUPPORT and PROOF. The update family (41_update.md): the round and its inverse bit by bit (R90, R102), linearity
(R100), the table (R97 to R99), and the sequence update as a function and as a run of `UPDB` (R93, R94, R101). -/

namespace Sys2Proof.Machine

/-! ### The round -/

/-- Every bit of a round: the bit above it, and `POLY` if bit 0 was set (41_update.md R90). -/
theorem getLsbD_crcRound (a : Word) (i : Nat) :
    (crcRound a).getLsbD i = (a.getLsbD (i + 1) ^^ (a.getLsbD 0 && poly.getLsbD i)) := by
  rw [crcRound_eq_xor, BitVec.getLsbD_xor, BitVec.getLsbD_ushiftRight, Nat.add_comm 1 i]
  cases a.getLsbD 0 <;> simp

/-- Bit 31 of a round is the bit that was tested: the shift leaves 0 there, and `POLY` has the bit set
(41_update.md R90). -/
theorem getLsbD_crcRound_top (a : Word) : (crcRound a).getLsbD 31 = a.getLsbD 0 := by
  have habove : a.getLsbD 32 = false := BitVec.getLsbD_of_ge a 32 le_rfl
  have hpoly : poly.getLsbD 31 = true := by decide
  rw [getLsbD_crcRound, habove, hpoly, Bool.false_xor, Bool.and_true]

/-- A round whose tested bit is 0 is the shift alone. -/
theorem crcRound_of_even {a : Word} (h : a.getLsbD 0 = false) : crcRound a = a >>> 1 := by
  rw [crcRound_eq_xor, h]
  exact BitVec.xor_zero

/-- Settles O34: the two branches of the round, and its bits. -/
theorem roundBitByBit : Obligations.RoundBitByBit :=
  ⟨fun _ h => if_pos h, fun _ h => crcRound_of_even h, getLsbD_crcRound_top,
    fun a i _ => getLsbD_crcRound a i⟩

@[simp] theorem crcRound_zero : crcRound 0#32 = 0#32 := by decide

/-- The round distributes over XOR, since both of its parts do: the shift, and the choice by bit 0
(41_update.md R100). -/
theorem crcRound_xor (x y : Word) : crcRound (x ^^^ y) = crcRound x ^^^ crcRound y := by
  have hchoice : ∀ p q : Bool, (if (p ^^ q) then poly else 0#32) =
      (if p then poly else 0#32) ^^^ (if q then poly else 0#32) := by decide
  simp only [crcRound_eq_xor, BitVec.ushiftRight_xor_distrib, BitVec.getLsbD_xor, hchoice]
  ac_rfl

/-- Eight rounds distribute over XOR, one round at a time (41_update.md R100). -/
theorem eightRounds_xor (x y : Word) : eightRounds (x ^^^ y) = eightRounds x ^^^ eightRounds y := by
  simp only [eightRounds, crcRound_xor]

/-- As many rounds as a value has zero bits at its low end are that many shifts. -/
theorem iterate_crcRound_of_low_zeros (n : Nat) (x : Word) (h : ∀ i < n, x.getLsbD i = false) :
    crcRound^[n] x = x >>> n := by
  induction n generalizing x with
  | zero => simp
  | succ n ih =>
    have hrest : ∀ i < n, (x >>> 1).getLsbD i = false := fun i hi => by
      simpa [Nat.add_comm] using h (i + 1) (by omega)
    rw [Function.iterate_succ_apply, crcRound_of_even (h 0 n.succ_pos), ih _ hrest, ← BitVec.shiftRight_add,
      Nat.add_comm]

/-- Eight rounds of a value whose low byte is zero are a shift by eight (41_update.md R98). -/
theorem eightRounds_of_low_byte_zero {x : Word} (h : ∀ i < 8, x.getLsbD i = false) : eightRounds x = x >>> 8 :=
  iterate_crcRound_of_low_zeros 8 x h

/-! ### The table -/

theorem zext32_xor (b c : Byte) : zext32 (b ^^^ c) = zext32 b ^^^ zext32 c := by
  apply BitVec.eq_of_getLsbD_eq
  simp

/-- Each entry of the table as listed in section 7 is eight rounds of its index: 256 closed facts (41_update.md R97). -/
theorem crcTableAt_eq_eightRounds (i : Byte) : crcTableAt i = eightRounds (zext32 i) := by
  revert i; decide +kernel

/-- Settles O37: the eight parts of the table have 32 entries each, and each entry is eight rounds of its index. -/
theorem tableHoldsEightRoundsOfEachByte : Obligations.TableHoldsEightRoundsOfEachByte := by
  refine ⟨by simp only [crcTable, List.length_append]; rfl, fun i => ?_⟩
  rw [crcTableAt_eq_eightRounds, crcStep_eq_eightRounds, BitVec.zero_xor]

/-- The accumulator and the byte go through the rounds apart from each other (41_update.md R100). -/
theorem crcStep_eq_xor_crcTableAt (a : Word) (b : Byte) : crcStep a b = eightRounds a ^^^ crcTableAt b := by
  rw [crcStep_eq_eightRounds, eightRounds_xor, crcTableAt_eq_eightRounds]

/-- The table entry of an XOR of two indices (41_update.md R100). -/
theorem crcTableAt_xor (i j : Byte) : crcTableAt (i ^^^ j) = crcTableAt i ^^^ crcTableAt j := by
  simp only [crcTableAt_eq_eightRounds, zext32_xor, eightRounds_xor]

/-- The byte step is that of the zero byte on the accumulator which has met the byte (41_update.md R100). -/
theorem crcStep_eq_crcStep_zero_byte (a : Word) (b : Byte) : crcStep a b = crcStep (a ^^^ zext32 b) 0#8 :=
  congrArg eightRounds (BitVec.xor_zero (x := a ^^^ zext32 b)).symm

/-- A difference in the accumulator goes through the byte step on its own (41_update.md R100). -/
theorem crcStep_xor (a d : Word) (b : Byte) : crcStep (a ^^^ d) b = crcStep a b ^^^ eightRounds d := by
  rw [crcStep_eq_eightRounds, crcStep_eq_eightRounds, ← eightRounds_xor]
  congr 1
  ac_rfl

/-- Settles O36: the linearity of the round, and what follows from it. -/
theorem roundsAreLinear : Obligations.RoundsAreLinear :=
  ⟨crcRound_xor, crcRound_zero, eightRounds_xor, crcStep_eq_eightRounds, crcStep_eq_xor_crcTableAt,
    crcStep_eq_crcStep_zero_byte, crcStep_xor, crcTableAt_xor, by decide⟩

/-- A byte in the accumulator is gone after a shift by eight: it has no higher bit. -/
theorem xor_zext32_ushiftRight (a : Word) (b : Byte) : (a ^^^ zext32 b) >>> 8 = a >>> 8 := by
  apply BitVec.eq_of_getLsbD_eq
  simp

/-- Eight rounds by one look into the table: the value is the XOR of its low byte, whose rounds the table holds, and of
the rest, whose rounds are shifts (41_update.md R98). -/
theorem eightRounds_eq_table (x : Word) : eightRounds x = crcTableAt (x.extractLsb' 0 8) ^^^ (x >>> 8) := by
  have hlow : ∀ i < 8, (x ^^^ zext32 (x.extractLsb' 0 8)).getLsbD i = false := fun i hi => by simp [hi]
  calc eightRounds x
      = eightRounds (zext32 (x.extractLsb' 0 8) ^^^ (x ^^^ zext32 (x.extractLsb' 0 8))) := by
        rw [BitVec.xor_comm x, ← BitVec.xor_assoc, BitVec.xor_self, BitVec.zero_xor]
    _ = crcTableAt (x.extractLsb' 0 8) ^^^ (x >>> 8) := by
        rw [eightRounds_xor, ← crcTableAt_eq_eightRounds, eightRounds_of_low_byte_zero hlow,
          xor_zext32_ushiftRight]

/-- The table-driven byte step is the bit-serial one (41_update.md R98). -/
theorem crcStepTable_eq_crcStep (a : Word) (b : Byte) : crcStepTable a b = crcStep a b := by
  rw [crcStep_eq_eightRounds, eightRounds_eq_table, xor_zext32_ushiftRight, crcStepTable]

/-- The table-driven update is the bit-serial one, byte by byte (41_update.md R99). -/
theorem crcUpdateTable_eq_crcUpdate (S : List Byte) (a : Word) : crcUpdateTable a S = crcUpdate a S := by
  induction S generalizing a with
  | nil => rfl
  | cons b S ih => rw [crcUpdateTable, ih, crcStepTable_eq_crcStep, crcUpdate_cons]

/-- Settles O38: the table holds eight rounds of the low byte, and the rest of the accumulator only shifts. -/
theorem tableStepIsBitIdentical : Obligations.TableStepIsBitIdentical :=
  ⟨fun a b => (crcStepTable_eq_crcStep a b).symm, crcStepTable_eq_crcStep, crcUpdateTable_eq_crcUpdate⟩

/-! ### The inverse -/

/-- Bit 0 of the inverse round is the bit it tests (41_update.md R102). -/
theorem getLsbD_crcRoundInv_zero (r : Word) : (crcRoundInv r).getLsbD 0 = r.getLsbD 31 := by
  rw [crcRoundInv]
  cases r.getLsbD 31 <;> simp

/-- Every higher bit of the inverse round (41_update.md R102). -/
theorem getLsbD_crcRoundInv_succ (r : Word) {i : Nat} (hi : i < 31) :
    (crcRoundInv r).getLsbD (i + 1) = (r.getLsbD i ^^ (r.getLsbD 31 && poly.getLsbD i)) := by
  have hsucc : i + 1 < 32 := by omega
  rw [crcRoundInv]
  cases r.getLsbD 31 <;> simp [hsucc, BitVec.getLsbD_eq_getElem (Nat.lt_of_succ_lt hsucc)]

/-- The inverse round undoes the round: bit 0 comes back from bit 31, and every other bit from the one below it. -/
theorem crcRoundInv_crcRound (a : Word) : crcRoundInv (crcRound a) = a := by
  apply BitVec.eq_of_getLsbD_eq
  rintro (_ | i) hi
  · rw [getLsbD_crcRoundInv_zero, getLsbD_crcRound_top]
  · have hi : i < 31 := Nat.lt_of_succ_lt_succ hi
    rw [getLsbD_crcRoundInv_succ _ hi, getLsbD_crcRound_top, getLsbD_crcRound, Bool.xor_assoc, Bool.xor_self,
      Bool.xor_false]

/-- The round undoes the inverse round: bit 31 comes back from bit 0, and every other bit from the one above it. -/
theorem crcRound_crcRoundInv (r : Word) : crcRound (crcRoundInv r) = r := by
  apply BitVec.eq_of_getLsbD_eq
  intro i hi
  obtain rfl | hi : i = 31 ∨ i < 31 := by omega
  · rw [getLsbD_crcRound_top, getLsbD_crcRoundInv_zero]
  · rw [getLsbD_crcRound, getLsbD_crcRoundInv_zero, getLsbD_crcRoundInv_succ _ hi, Bool.xor_assoc, Bool.xor_self,
      Bool.xor_false]

theorem crcRound_bijective : Function.Bijective crcRound :=
  Function.bijective_iff_has_inverse.2 ⟨crcRoundInv, crcRoundInv_crcRound, crcRound_crcRoundInv⟩

/-- The byte step is a bijection for every byte: the XOR by the byte undoes itself, and eight bijections follow
(41_update.md R102). -/
theorem crcStep_bijective (b : Byte) : Function.Bijective fun a : Word => crcStep a b := by
  have hxor : Function.Involutive fun a : Word => a ^^^ zext32 b := fun a => by simp
  exact (crcRound_bijective.iterate 8).comp hxor.bijective

/-- The update is a bijection for every sequence, being one byte step after the other (41_update.md R102). -/
theorem crcUpdate_bijective (S : List Byte) : Function.Bijective fun a : Word => crcUpdate a S := by
  induction S with
  | nil => exact Function.bijective_id
  | cons b S ih => exact ih.comp (crcStep_bijective b)

/-- Settles O40: the two sides of the inverse, and the composition of bijections. -/
theorem updateIsInvertible : Obligations.UpdateIsInvertible :=
  ⟨crcRoundInv_crcRound, crcRound_crcRoundInv, crcStep_bijective, crcUpdate_bijective⟩

/-! ### The sequence update -/

/-- The update by one sequence and then another is the update by both in order (41_update.md R95). -/
theorem crcUpdate_append (a : Word) (S1 S2 : List Byte) :
    crcUpdate a (S1 ++ S2) = crcUpdate (crcUpdate a S1) S2 := by
  induction S1 generalizing a with
  | nil => rfl
  | cons b S1 ih => exact ih (crcStep a b)

theorem crcStep_zero_zero : crcStep 0#32 0#8 = 0#32 := by decide

/-- Zero bytes leave a zero accumulator (41_update.md R101). -/
theorem crcUpdate_zero_replicate_zero (n : Nat) : crcUpdate 0#32 (List.replicate n 0#8) = 0#32 := by
  induction n with
  | zero => rfl
  | succ n ih => rw [List.replicate_succ, crcUpdate_cons, crcStep_zero_zero, ih]

/-- Settles O39: the zero bytes leave the accumulator zero, and the rest of the sequence starts from there. -/
theorem zeroSeedHidesZeroBytes : Obligations.ZeroSeedHidesZeroBytes :=
  ⟨crcRound_zero, crcStep_zero_zero, crcUpdate_zero_replicate_zero,
    fun n S => by rw [crcUpdate_append, crcUpdate_zero_replicate_zero]⟩

/-- Settles O41: no byte is no command. -/
theorem emptyUpdateIsIdentity : Obligations.EmptyUpdateIsIdentity :=
  ⟨crcUpdate_nil, runCommands_nil⟩

/-! ### The update as a run of `UPDB` -/

/-- The recurrence over two lists of words, one after the other (20_memory.md R49). -/
theorem refRun_append (a : Word) (cs ds : List CmdWord) :
    refRun a (cs ++ ds) = ((refRun (refRun a cs).1 ds).1, (refRun a cs).2 ++ (refRun (refRun a cs).1 ds).2) := by
  induction cs generalizing a with
  | nil => rfl
  | cons c cs ih => rw [List.cons_append, refRun_cons, ih, refRun_cons]; rfl

/-- The recurrence has one response per word (30_encoding.md R69). -/
theorem length_refRun (a : Word) (cs : List CmdWord) : (refRun a cs).2.length = cs.length := by
  induction cs generalizing a with
  | nil => rfl
  | cons c cs ih => rw [refRun_cons, List.length_cons, List.length_cons, ih]

@[simp] theorem updateCmds_cons (b : Byte) (S : List Byte) :
    updateCmds (b :: S) = encode (.updb b) :: updateCmds S := rfl

@[simp] theorem length_updateCmds (S : List Byte) : (updateCmds S).length = S.length := List.length_map _

/-- The recurrence over the `UPDB` of a sequence folds the sequence into the accumulator (41_update.md R93). -/
theorem refRun_updateCmds (a : Word) (S : List Byte) : (refRun a (updateCmds S)).1 = crcUpdate a S := by
  induction S generalizing a with
  | nil => rfl
  | cons b S ih => rw [updateCmds_cons, refRun_cons, refStep_updb, crcUpdate_cons, ih]

/-- After at least one command, legal or not, the last `DATA` the host has is the accumulator (30_encoding.md R68). -/
theorem lastData_of_runCommands {cs : List CmdWord} {s t : State} (hne : cs ≠ []) (h : runCommands cs s = .next t) :
    t.lastData = some t.acc := by
  obtain rfl | ⟨ds, w, rfl⟩ := List.eq_nil_or_concat cs
  · exact absurd rfl hne
  · rw [runIsTheRecurrence, List.concat_eq_append, refRun_append] at h
    cases h
    simp [State.lastData, rspData_refStep]

/-- Settles O43: the run is the recurrence, which folds the bytes and has one response per byte, and the last one shows
the accumulator. -/
theorem updateRunFoldsTheSequence : Obligations.UpdateRunFoldsTheSequence := by
  refine ⟨crcUpdate_nil, fun a S b => crcUpdate_append a S [b], fun S s => ?_⟩
  have hrun := runIsTheRecurrence (updateCmds S) s
  refine ⟨_, hrun, refRun_updateCmds s.acc S, ?_, fun hne => ?_⟩
  · rw [List.length_append, length_refRun, length_updateCmds]
  · have hcmds : updateCmds S ≠ [] := mt List.map_eq_nil_iff.1 hne
    rw [lastData_of_runCommands hcmds hrun, refRun_updateCmds]

end Sys2Proof.Machine
end

section
/-! SUPPORT and PROOF. The host's protocols (42_host_convention.md R123, R124): each is a load of the accumulator, the `UPDB`
of some bytes and a read, so the recurrence of a run says what it leaves and what the host's last `DATA` is. -/

namespace Sys2Proof.Machine

/-! ### What a protocol leaves in the accumulator -/

/-- The read at the end of a protocol shows the accumulator and leaves it (40_accumulator_access.md R81). -/
theorem refRun_readCmds (a : Word) : (refRun a readCmds).1 = a := by
  rw [readCmds, refRun_cons, refStep_rdacc, refRun_nil]

/-- A read after some commands leaves the accumulator those commands left. -/
theorem refRun_append_readCmds (a : Word) (cs : List CmdWord) : (refRun a (cs ++ readCmds)).1 = (refRun a cs).1 := by
  rw [refRun_append, refRun_readCmds]

/-- A load and then the bytes of `S`: the update of the loaded value, whatever the accumulator was
(40_accumulator_access.md R80). -/
theorem refRun_restoreCmds_updateCmds (a v : Word) (S : List Byte) :
    (refRun a (restoreCmds v ++ updateCmds S)).1 = crcUpdate v S := by
  rw [restoreCmds, List.singleton_append, refRun_ldacc_cons, refRun_updateCmds]

/-- A load, the bytes of `S` and a read: one turn of every protocol. -/
theorem refRun_restoreCmds_updateCmds_readCmds (a v : Word) (S : List Byte) :
    (refRun a (restoreCmds v ++ updateCmds S ++ readCmds)).1 = crcUpdate v S := by
  rw [refRun_append_readCmds, refRun_restoreCmds_updateCmds]

/-- The one-shot protocol is a turn that loads the seed. -/
theorem refRun_oneShotCmds (a : Word) (S : List Byte) : (refRun a (oneShotCmds S)).1 = crcUpdate seed S :=
  refRun_restoreCmds_updateCmds_readCmds a seed S

/-- The commands of the chunks, one chunk after the other, are those of all the bytes together. -/
theorem flatten_map_updateCmds (chunks : List (List Byte)) :
    (chunks.map updateCmds).flatten = updateCmds chunks.flatten :=
  List.map_flatten.symm

/-- The streaming protocol sends the words of the one-shot protocol: where a chunk ends cannot be told from the words. -/
theorem streamCmds_eq_oneShotCmds (chunks : List (List Byte)) : streamCmds chunks = oneShotCmds chunks.flatten := by
  rw [streamCmds, flatten_map_updateCmds, oneShotCmds]

/-! ### What the host reads -/

/-- Every command is answered with `ERR` = 0 (60_exceptions.md R130). -/
theorem rspErr_refStep_encode (a : Word) (i : Instr) : rspErr (refStep a (encode i)).2 = 0#1 := by
  cases i with
  | ldacc v => rw [refStep_ldacc, rspErr_rspWord]
  | updb b => rw [refStep_updb, rspErr_rspWord]
  | rdacc => rw [refStep_rdacc, rspErr_rspWord]

/-- Every response to a list of commands has `ERR` = 0. -/
theorem rspErr_of_mem_refRun_encode {a : Word} {is : List Instr} {r : RspWord}
    (h : r ∈ (refRun a (is.map encode)).2) : rspErr r = 0#1 := by
  induction is generalizing a with
  | nil => exact absurd h List.not_mem_nil
  | cons i is ih =>
    rw [List.map_cons, refRun_cons] at h
    obtain rfl | h := List.mem_cons.1 h
    · exact rspErr_refStep_encode a i
    · exact ih h

/-- The one-shot protocol as commands. -/
theorem oneShotCmds_eq_map_encode (S : List Byte) :
    oneShotCmds S = ([.ldacc seed] ++ S.map Instr.updb ++ [.rdacc] : List Instr).map encode := by
  simp [oneShotCmds, initCmds, updateCmds, readCmds]

/-- The one-shot protocol is `n + 2` commands (42_host_convention.md R123). -/
theorem length_oneShotCmds (S : List Byte) : (oneShotCmds S).length = S.length + 2 := by
  simp [oneShotCmds, initCmds, readCmds]

/-- A host that has driven the accumulator to the update of the seed by `S` gets `crc32(S)` by complementing the last
`DATA` it has, whatever the last command was (42_host_convention.md R121, R122). -/
theorem finalise_lastData_of_runCommands {cs : List CmdWord} {s t : State} {S : List Byte} (hne : cs ≠ [])
    (hrun : runCommands cs s = .next t) (hacc : t.acc = crcUpdate seed S) :
    t.lastData.map finalise = some (crc32 S) := by
  rw [lastData_of_runCommands hne hrun, hacc, Option.map_some, crc32]

/-- The complement of a finalised value is the raw accumulator (42_host_convention.md R124). -/
theorem finalise_crc32 (S : List Byte) : finalise (crc32 S) = crcUpdate seed S :=
  BitVec.not_not

/-! ### The protocols -/

/-- Settles O46: the run is the recurrence over words of commands alone, which leaves the update of the seed with the
final `RDACC` and without it. -/
theorem oneShotComputesCrc32 : Obligations.OneShotComputesCrc32 := by
  intro S s
  have hrun := runIsTheRecurrence (oneShotCmds S) s
  have hshort := runIsTheRecurrence (initCmds ++ updateCmds S) s
  have hacc := refRun_oneShotCmds s.acc S
  refine ⟨length_oneShotCmds S, _, _, (refRun s.acc (oneShotCmds S)).2, hrun, rfl, ?_, fun r hr => ?_, ?_, ?_, hshort, ?_⟩
  · rw [length_refRun, length_oneShotCmds]
  · rw [oneShotCmds_eq_map_encode] at hr
    exact rspErr_of_mem_refRun_encode hr
  · rw [lastData_of_runCommands (List.cons_ne_nil _ _) hrun, hacc]
  · exact finalise_lastData_of_runCommands (List.cons_ne_nil _ _) hrun hacc
  · exact finalise_lastData_of_runCommands (List.cons_ne_nil _ _) hshort (refRun_restoreCmds_updateCmds s.acc seed S)

/-- Settles O47: chunks send the words of the one-shot protocol; a read between them leaves the accumulator, from which
the later bytes go on; and the complement of a finalised value is that accumulator again. -/
theorem streamingEqualsOneShot : Obligations.StreamingEqualsOneShot := by
  refine ⟨fun chunks s => ?_, fun S1 S2 s => ?_, fun S1 S2 s => ?_⟩
  · have hrun := runIsTheRecurrence (oneShotCmds chunks.flatten) s
    rw [streamCmds_eq_oneShotCmds]
    exact ⟨_, hrun, finalise_lastData_of_runCommands (List.cons_ne_nil _ _) hrun (refRun_oneShotCmds s.acc _)⟩
  · have hfirst := runIsTheRecurrence (oneShotCmds S1) s
    have hacc := refRun_oneShotCmds s.acc S1
    have hrest := runIsTheRecurrence (updateCmds S2 ++ readCmds)
    refine ⟨_, _, hfirst, finalise_lastData_of_runCommands (List.cons_ne_nil _ _) hfirst hacc, hrest _,
      finalise_lastData_of_runCommands (List.append_ne_nil_of_right_ne_nil _ (List.cons_ne_nil _ _)) (hrest _) ?_⟩
    rw [refRun_append_readCmds, refRun_updateCmds, hacc, crcUpdate_append]
  · have hrun := runIsTheRecurrence (resumeCmds (crc32 S1) S2) s
    refine ⟨_, hrun, finalise_lastData_of_runCommands (List.cons_ne_nil _ _) hrun ?_⟩
    rw [resumeCmds, refRun_restoreCmds_updateCmds_readCmds, finalise_crc32, crcUpdate_append]

end Sys2Proof.Machine
end

section
/-! SUPPORT and PROOF. The one exception (60_exceptions.md): no command raises it (R130), and exactly the words that match
no row of the opcode map do (R131). -/

namespace Sys2Proof

/-- A word spells a command exactly when it matches a row of the opcode map (30_encoding.md R66): any other word is
refused, and the decoder does one or the other. -/
theorem exists_decode_ok_iff (w : CmdWord) :
    (∃ i, decode w = .ok i) ↔ ∃ r ∈ opcodeMap, w &&& r.mask = r.pattern := by
  have hrefused : (¬∃ c, decode w = .error c) ↔ ∃ r ∈ opcodeMap, w &&& r.mask = r.pattern := by
    simp [exists_decode_error_iff]
  rw [← hrefused]
  cases decode w <;> simp

namespace Machine

/-- Settles O15: the command word runs as the spec's step function says, which answers an encoded command with `ERR` = 0. -/
theorem legalCommandsNeverFail : Obligations.LegalCommandsNeverFail := fun i s =>
  ⟨_, _, runCommand_eq_refStep (encode i) s, rfl, rspErr_refStep_encode s.acc i⟩

/-- Settles O16: a word that matches no row is refused by the decoder and takes `IllegalCommand`, and a word that matches
a row runs the command it decodes to, which answers with `ERR` = 0. -/
theorem illegalCommandChangesNothing : Obligations.IllegalCommandChangesNothing := by
  refine ⟨fun w s hrow => ?_, fun w s hrow => ?_⟩
  · obtain ⟨c, hd⟩ := (exists_decode_error_iff w).2 hrow
    exact runCommand_illegal hd s
  · obtain ⟨i, hd⟩ := (exists_decode_ok_iff w).2 hrow
    obtain ⟨a, hexec, -⟩ := exec_cases i s
    exact ⟨_, rspWord 0#1 a, (runCommand_legal hd s).trans hexec, rfl, rspErr_rspWord 0#1 a⟩

end Machine

end Sys2Proof
end

section
/-! SUPPORT and PROOF. Decoding, encoding and the assembler's text (30_encoding.md R66, R72 to R74): the decoder is the
inverse of the encoder, and reading a printed word the inverse of printing it. -/

namespace Sys2Proof

/-! ### Words and their fields -/

/-- Two command words with the same opcode and the same argument are the same word. -/
theorem cmdWord_ext {w w' : CmdWord} (hop : cmdOp w = cmdOp w') (harg : cmdArg w = cmdArg w') : w = w' := by
  rw [cmdWord_eq_fields w, hop, harg, ← cmdWord_eq_fields]

/-- Two arguments with the same `ZERO24` and the same `IMM8` are the same argument. -/
theorem cmdArg_ext {w w' : CmdWord} (hzero : cmdZero24 w = cmdZero24 w') (himm : cmdImm8 w = cmdImm8 w') :
    cmdArg w = cmdArg w' := by
  rw [cmdArg_eq_fields, hzero, himm, ← cmdArg_eq_fields]

/-- What the fields of a word are when it spells a command: the formats W, B and N (30_encoding.md R62 to R64). -/
def Instr.spelledBy : Instr → CmdWord → Prop
  | .ldacc v, w => cmdOp w = 0x1#4 ∧ cmdArg w = v
  | .updb b, w  => cmdOp w = 0x2#4 ∧ cmdZero24 w = 0#24 ∧ cmdImm8 w = b
  | .rdacc, w   => cmdOp w = 0x3#4 ∧ cmdArg w = 0#32

/-- The decoder answers a command exactly when the fields spell it: one case per opcode it tells apart. -/
theorem decode_eq_ok_iff (w : CmdWord) (i : Instr) : decode w = .ok i ↔ i.spelledBy w := by
  obtain h | h | h | h | h := opcode_cases (cmdOp w)
  · cases i <;> simp [decode, Instr.spelledBy, h]
  · cases i <;> simp [decode, Instr.spelledBy, h]
  · by_cases hz : cmdZero24 w = 0#24 <;> cases i <;> simp [decode, Instr.spelledBy, h, hz]
  · by_cases hz : cmdArg w = 0#32 <;> cases i <;> simp [decode, Instr.spelledBy, h, hz]
  · rw [decode_of_high h]
    cases i <;> simp [Instr.spelledBy, cmdOp_ne_of_high h]

/-- The encoding of a command spells it. -/
theorem spelledBy_encode (i : Instr) : i.spelledBy (encode i) := by
  cases i <;> simp [Instr.spelledBy]

/-- A word that spells a command is its encoding, since the fields leave out no bit of the word. -/
theorem eq_encode_of_spelledBy {i : Instr} {w : CmdWord} (h : i.spelledBy w) : w = encode i := by
  cases i with
  | ldacc v =>
    obtain ⟨hop, harg⟩ := h
    exact cmdWord_ext (by simp [hop]) (by simp [harg])
  | updb b =>
    obtain ⟨hop, hzero, himm⟩ := h
    exact cmdWord_ext (by simp [hop]) (cmdArg_ext (by simp [hzero]) (by simp [himm]))
  | rdacc =>
    obtain ⟨hop, harg⟩ := h
    exact cmdWord_ext (by simp [hop]) (by simp [harg])

@[simp] theorem decode_encode (i : Instr) : decode (encode i) = .ok i :=
  (decode_eq_ok_iff _ i).2 (spelledBy_encode i)

theorem eq_encode_of_decode {w : CmdWord} {i : Instr} (h : decode w = .ok i) : w = encode i :=
  eq_encode_of_spelledBy ((decode_eq_ok_iff w i).1 h)

/-- Settles O1: a word decodes to the command its fields spell, and the fields are the whole word. -/
theorem decodeAndEncodeAgree : Obligations.DecodeAndEncodeAgree := fun i _ =>
  ⟨eq_encode_of_decode, fun h => h ▸ decode_encode i⟩

/-- Every word is the encoding of a command, or the decoder names its class. -/
theorem encode_or_illegal (w : CmdWord) : (∃ i, w = encode i) ∨ ∃ c, decode w = .error c := by
  cases h : decode w with
  | ok i => exact .inl ⟨i, eq_encode_of_decode h⟩
  | error c => exact .inr ⟨c, rfl⟩

/-! ### The rows of the opcode map -/

theorem fits_iff (r : OpcodeRow) (w : CmdWord) : r.fits w = true ↔ w &&& r.mask = r.pattern :=
  beq_iff_eq

theorem fits_eq_false_iff (r : OpcodeRow) (w : CmdWord) : r.fits w = false ↔ w &&& r.mask ≠ r.pattern :=
  beq_eq_false_iff_ne

/-- Every row tests the whole opcode, so a word that fits a row has the opcode of that row's pattern. -/
theorem cmdOp_eq_of_fits {r : OpcodeRow} (hr : r ∈ opcodeMap) {w : CmdWord} (h : r.fits w = true) :
    cmdOp w = cmdOp r.pattern := by
  have hmask : ∀ r ∈ opcodeMap, cmdOp r.mask = .allOnes 4 := by decide
  calc cmdOp w
      = cmdOp w &&& cmdOp r.mask := by rw [hmask r hr, BitVec.and_allOnes]
    _ = cmdOp (w &&& r.mask) := BitVec.extractLsb'_and.symm
    _ = cmdOp r.pattern := by rw [(fits_iff r w).1 h]

/-- No two rows have the same opcode. -/
theorem row_eq_of_cmdOp_eq : ∀ r ∈ opcodeMap, ∀ r' ∈ opcodeMap, cmdOp r.pattern = cmdOp r'.pattern → r = r' := by
  decide

/-- Settles O2: the rows' masks are the conditions on the fields under which the decoder answers, and the opcode tells the
rows apart. -/
theorem wordsDecodeByTheirOpcodeRow : Obligations.WordsDecodeByTheirOpcodeRow := by
  refine ⟨fun w => ?_, fun w => ?_, fun w => ?_, fun w => ?_, fun w r hr r' hr' h h' => ?_⟩
  · simp [decode_eq_ok_iff, Instr.spelledBy, and_ldaccMask_eq_iff]
  · simp [decode_eq_ok_iff, Instr.spelledBy, and_updbMask_eq_iff]
  · rw [decode_eq_ok_iff, and_rdaccMask_eq_iff, Instr.spelledBy]
  · simp only [exists_decode_error_iff, fits_eq_false_iff]
  · exact row_eq_of_cmdOp_eq r hr r' hr' ((cmdOp_eq_of_fits hr h).symm.trans (cmdOp_eq_of_fits hr' h'))

/-- Settles O4: eight evaluations of the decoder. -/
theorem sampleWordsDecode : Obligations.SampleWordsDecode := by
  unfold Obligations.SampleWordsDecode
  decide

/-! ### The words as numbers -/

/-- The word of `UPDB` as a number (41_update.md R92). -/
theorem encode_updb_toNat (b : Byte) : (encode (.updb b)).toNat = 0x200000000 + b.toNat :=
  toNat_append_eq_add (0x2#4 ++ 0#24) b

theorem encode_ldacc_ofNat {n : Nat} (h : n ≤ 0xFFFFFFFF) :
    encode (.ldacc (BitVec.ofNat 32 n)) = BitVec.ofNat 36 (0x100000000 + n) := by
  apply BitVec.eq_of_toNat_eq
  rw [encode_ldacc_toNat, BitVec.toNat_ofNat, BitVec.toNat_ofNat]
  omega

theorem encode_updb_ofNat {n : Nat} (h : n ≤ 0xFF) :
    encode (.updb (BitVec.ofNat 8 n)) = BitVec.ofNat 36 (0x200000000 + n) := by
  apply BitVec.eq_of_toNat_eq
  rw [encode_updb_toNat, BitVec.toNat_ofNat, BitVec.toNat_ofNat]
  omega

namespace Machine

/-! ### The assembler -/

theorem assembleLine_of_wellFormed {l : SourceLine} (h : l.wellFormed = true) : assembleLine l = some (expandLine l) :=
  if_pos h

/-- Settles O6: each line is refused out of range, and in range its word is the number given. -/
theorem assemblerWords : Obligations.AssemblerWords := by
  refine ⟨fun n => ?_, fun n => ?_, fun c => ?_, by decide, fun n => ?_⟩
  · by_cases h : n ≤ 0xFFFFFFFF
    · simp [assembleLine, SourceLine.wellFormed, expandLine, h, encode_ldacc_ofNat h]
    · simp [assembleLine, SourceLine.wellFormed, h]
  · by_cases h : n ≤ 0xFF
    · simp [assembleLine, SourceLine.wellFormed, ByteOperand.wellFormed, expandLine, operandByte, h, encode_updb_ofNat h]
    · simp [assembleLine, SourceLine.wellFormed, ByteOperand.wellFormed, h]
  · by_cases h : c.toNat < 0x80
    · have hbyte : c.toNat ≤ 0xFF := by omega
      simp [assembleLine, SourceLine.wellFormed, ByteOperand.wellFormed, expandLine, operandByte, charByte, h,
        encode_updb_ofNat hbyte]
    · simp [assembleLine, SourceLine.wellFormed, ByteOperand.wellFormed, h]
  · simp [assembleLine, SourceLine.wellFormed, expandLine]

/-- A byte written as a numeral stands for itself. -/
theorem operandByte_num_toNat (b : Byte) : operandByte (.num b.toNat) = b :=
  BitVec.ofNat_toNat 8 b |>.trans (BitVec.setWidth_eq b)

/-- Settles O7: every operand is in range, so each line is its expansion. -/
theorem pseudoInstructionsExpand : Obligations.PseudoInstructionsExpand := by
  refine ⟨by decide, fun bs => ?_, by decide, fun cs hcs => ?_, rfl, rfl, fun v => ?_⟩
  · have hwf : (SourceLine.update (bs.map fun b => .num b.toNat)).wellFormed = true := by
      simp only [SourceLine.wellFormed, List.all_map, List.all_eq_true, Function.comp_apply, ByteOperand.wellFormed,
        decide_eq_true_eq]
      intro b _
      have := b.isLt
      omega
    rw [assembleLine_of_wellFormed hwf]
    simp [expandLine, updateCmds, operandByte_num_toNat]
  · have hwf : (SourceLine.updateText cs).wellFormed = true := by simpa [SourceLine.wellFormed] using hcs
    rw [assembleLine_of_wellFormed hwf]
    simp [expandLine, updateCmds, charByte]
  · have hwf : (SourceLine.restore v.toNat).wellFormed = true := by
      have := v.isLt
      simp only [SourceLine.wellFormed, decide_eq_true_eq]
      omega
    rw [assembleLine_of_wellFormed hwf]
    simp [expandLine, restoreCmds]

/-! ### Disassembly and printing, case by case -/

@[simp] theorem disassemble_encode_ldacc (v : Word) : disassemble (encode (.ldacc v)) = .ldacc v.toNat := by
  simp [disassemble]

@[simp] theorem disassemble_encode_updb (b : Byte) : disassemble (encode (.updb b)) = .updb (.num b.toNat) := by
  simp [disassemble]

@[simp] theorem disassemble_encode_rdacc : disassemble (encode .rdacc) = .rdacc := by
  simp [disassemble]

theorem disassemble_illegal {w : CmdWord} {c : IllegalClass} (h : decode w = .error c) :
    disassemble w = .dotWord w.toNat := by
  simp [disassemble, h]

@[simp] theorem printWord_encode_ldacc (v : Word) :
    printWord (encode (.ldacc v)) = nameLdacc ++ ' ' :: hexNumeral 8 v.toNat := by
  simp [printWord]

@[simp] theorem printWord_encode_updb (b : Byte) :
    printWord (encode (.updb b)) = nameUpdb ++ ' ' :: hexNumeral 2 b.toNat := by
  simp [printWord]

@[simp] theorem printWord_encode_rdacc : printWord (encode .rdacc) = nameRdacc := by
  simp [printWord]

theorem printWord_illegal {w : CmdWord} {c : IllegalClass} (h : decode w = .error c) :
    printWord w = nameWord ++ ' ' :: hexNumeral 9 w.toNat := by
  simp [printWord, h]

/-- The disassembly of a word assembles to it: every operand it prints is in range (30_encoding.md R74). -/
theorem assembleLine_disassemble (w : CmdWord) : assembleLine (disassemble w) = some [w] := by
  obtain ⟨i, rfl⟩ | ⟨c, hc⟩ := encode_or_illegal w
  · cases i with
    | ldacc v =>
      have hv : v.toNat ≤ 0xFFFFFFFF := Nat.le_of_lt_succ v.isLt
      simp [assembleLine, SourceLine.wellFormed, expandLine, hv]
    | updb b =>
      have hb : b.toNat ≤ 0xFF := Nat.le_of_lt_succ b.isLt
      simp [assembleLine, SourceLine.wellFormed, ByteOperand.wellFormed, expandLine, operandByte_num_toNat, hb]
    | rdacc => rw [disassemble_encode_rdacc]; rfl
  · have hw : w.toNat ≤ 0xFFFFFFFFF := Nat.le_of_lt_succ w.isLt
    simp [disassemble_illegal hc, assembleLine, SourceLine.wellFormed, expandLine, hw]

/-! ### Reading a printed numeral -/

/-- Reading digits goes on from the value of the digits before. -/
theorem digitsFrom_append {base acc a : Nat} {cs : List Char} (h : digitsFrom base acc cs = some a) (ds : List Char) :
    digitsFrom base acc (cs ++ ds) = digitsFrom base a ds := by
  induction cs generalizing acc with
  | nil => cases h; rfl
  | cons c cs ih =>
    rw [digitsFrom] at h
    rw [List.cons_append, digitsFrom]
    split at h
    · split at h
      · rw [if_pos ‹_›]; exact ih h
      · cases h
    · cases h

/-- `k` printed digits read back as the value's last `k` digits. -/
theorem digitsFrom_hexDigits (k n acc : Nat) :
    digitsFrom 16 acc (hexDigits k n) = some (acc * 16 ^ k + n % 16 ^ k) := by
  induction k generalizing n with
  | zero => simp [hexDigits, digitsFrom, Nat.mod_one]
  | succ k ih =>
    have hdigit : n % 16 < 16 := Nat.mod_lt _ (by omega)
    have hvalue : n % 16 ^ (k + 1) = n / 16 % 16 ^ k * 16 + n % 16 := by
      rw [Nat.pow_succ', Nat.mod_mul]; omega
    rw [hexDigits, digitsFrom_append (ih (n / 16))]
    simp only [digitsFrom, digitValue_hexDigit _ hdigit, if_pos hdigit, hvalue]
    congr 1; ring

/-- A printed numeral with enough digits reads back as its value. -/
theorem numeral_hexNumeral {k n : Nat} (hk : k ≠ 0) (hn : n < 16 ^ k) : numeral (hexNumeral k n) = some n := by
  have hdigits : hexDigits k n ≠ [] := by
    rw [← List.length_pos_iff, hexDigits_length]; omega
  obtain ⟨c, cs, hcs⟩ := List.exists_cons_of_ne_nil hdigits
  have hread := digitsFrom_hexDigits k n 0
  rw [hcs, Nat.mod_eq_of_lt hn, Nat.zero_mul, Nat.zero_add] at hread
  simpa [hexNumeral, numeral, hcs, digits] using hread

/-- All characters of a printed numeral belong to it. -/
theorem isNumeralChar_of_mem_hexNumeral {k n : Nat} {c : Char} (h : c ∈ hexNumeral k n) : isNumeralChar c = true := by
  obtain h | h := List.mem_append.1 h
  · obtain rfl | rfl : c = '0' ∨ c = 'x' := by simpa using h
    · rfl
    · rfl
  · exact isNumeralChar_of_mem_hexDigits h

/-- The blank before a printed numeral is skipped. -/
theorem skipBlanks_hexNumeral (k n : Nat) : skipBlanks (' ' :: hexNumeral k n) = hexNumeral k n := rfl

/-- A printed numeral at the end of a line is read whole. -/
theorem readNumber_hexNumeral {k n : Nat} (hk : k ≠ 0) (hn : n < 16 ^ k) :
    readNumber (' ' :: hexNumeral k n) = some (n, []) := by
  have htake : (hexNumeral k n).takeWhile isNumeralChar = hexNumeral k n :=
    List.takeWhile_eq_self_iff.2 fun _ => isNumeralChar_of_mem_hexNumeral
  have hdrop : (hexNumeral k n).dropWhile isNumeralChar = [] :=
    List.dropWhile_eq_nil_iff.2 fun _ => isNumeralChar_of_mem_hexNumeral
  simp only [readNumber, skipBlanks_hexNumeral, htake, hdrop, numeral_hexNumeral hk hn, Option.map_some]

theorem readNumberLine_hexNumeral (mk : Nat → SourceLine) {k n : Nat} (hk : k ≠ 0) (hn : n < 16 ^ k) :
    readNumberLine mk (' ' :: hexNumeral k n) = some (mk n) := by
  rw [readNumberLine, readNumber_hexNumeral hk hn]; rfl

/-- A byte printed as a numeral is read as a numeral: it begins with no quote. -/
theorem readByte_hexNumeral {k n : Nat} (hk : k ≠ 0) (hn : n < 16 ^ k) :
    readByte (' ' :: hexNumeral k n) = some (.num n, []) := by
  have hread : readByte (' ' :: hexNumeral k n) =
      (readNumber (' ' :: hexNumeral k n)).map fun (n, rest) => (.num n, rest) := rfl
  rw [hread, readNumber_hexNumeral hk hn, Option.map_some]

/-! ### Reading a printed line -/

/-- The mnemonic of a printed line is told from its operand by the blank. -/
theorem readLine_ldacc (t : List Char) :
    readLine (nameLdacc ++ ' ' :: t) = (readNumberLine .ldacc (' ' :: t)).map some := rfl

theorem readLine_updb {t : List Char} {b : ByteOperand} (h : readByte (' ' :: t) = some (b, [])) :
    readLine (nameUpdb ++ ' ' :: t) = some (some (.updb b)) := by
  have hread : readLine (nameUpdb ++ ' ' :: t) = (readOperand nameUpdb (' ' :: t)).map some := rfl
  have hname : nameUpdb ≠ nameLdacc := by decide
  rw [hread, readOperand, if_neg hname, if_pos rfl, h]
  rfl

theorem readLine_word (t : List Char) :
    readLine (nameWord ++ ' ' :: t) = (readNumberLine .dotWord (' ' :: t)).map some := rfl

/-- A printed word reads back as its disassembly (30_encoding.md R74). -/
theorem readLine_printWord (w : CmdWord) : readLine (printWord w) = some (some (disassemble w)) := by
  obtain ⟨i, rfl⟩ | ⟨c, hc⟩ := encode_or_illegal w
  · cases i with
    | ldacc v =>
      rw [printWord_encode_ldacc, readLine_ldacc, readNumberLine_hexNumeral _ (by decide) v.isLt,
        disassemble_encode_ldacc, Option.map_some]
    | updb b =>
      rw [printWord_encode_updb, readLine_updb (readByte_hexNumeral (by decide) b.isLt), disassemble_encode_updb]
    | rdacc => rw [printWord_encode_rdacc, disassemble_encode_rdacc]; rfl
  · rw [printWord_illegal hc, readLine_word, readNumberLine_hexNumeral _ (by decide) w.isLt, disassemble_illegal hc,
      Option.map_some]

/-- Settles O5: the two inverses of disassembly, the printed text of each case, and the two sides of O1. -/
theorem disassemblyInvertsAssembly : Obligations.DisassemblyInvertsAssembly :=
  ⟨assembleLine_disassemble, readLine_printWord, printWord_encode_ldacc, printWord_encode_updb, printWord_encode_rdacc,
    fun _ _ => printWord_illegal, decode_encode, fun _ _ h => (eq_encode_of_decode h).symm⟩

end Machine

end Sys2Proof
end

section
/-! SUPPORT and PROOF. One step (10_state.md R22, R23): which events write the accumulator, what each leaves alone, and that
the responses of a run stay in agreement with it (30_encoding.md R68, 60_exceptions.md R131). -/

namespace Sys2Proof.Machine

/-! ### What a step answers -/

/-- What `UPDB` does to the whole state. -/
theorem exec_updb (b : Byte) (s : State) :
    exec (.updb b) s = .next { s with
      acc := crcStep s.acc b
      responses := s.responses ++ [rspWord 0#1 (crcStep s.acc b)] } := rfl

/-- Settles O10: the meaning of `UPDB`, its word as a number, and for a word with a reserved bit set the class R67 names,
which takes `IllegalCommand`. -/
theorem updbFoldsOneByte : Obligations.UpdbFoldsOneByte := by
  refine ⟨exec_updb, encode_updb_toNat, fun w s hop hzero => ?_⟩
  have hd : decode w = .error .updbReservedBits := (decode_eq_error_iff w .updbReservedBits).2 ⟨hop, hzero⟩
  exact runCommand_illegal hd s

/-- Settles O12: the step takes the command word from the host's list, and the decoder says what the word does. -/
theorem stepRunsTheDecodedCommand : Obligations.StepRunsTheDecodedCommand := by
  refine ⟨fun s w rest i h hd => ?_, fun s w rest c h hd => ?_⟩
  · rw [step_of_cons h]
    exact runCommand_legal hd _
  · rw [step_of_cons h]
    exact runCommand_illegal hd _

/-- Settles O18: an empty list gives no event, and the idle event changes nothing. -/
theorem idleTimeChangesNothing : Obligations.IdleTimeChangesNothing :=
  ⟨fun _ => step_of_nil, fun _ _ => step_of_cons⟩

/-- Settles O20: the step takes the reset event from the host's list and runs it. -/
theorem resetDrawsAccReset : Obligations.ResetDrawsAccReset := fun _ _ => step_of_cons

/-- Settles O19: with no event the step leaves the state, and every event is answered. -/
theorem everyStepAnswers : Obligations.EveryStepAnswers := by
  intro s
  cases h : s.inbox with
  | nil => exact ⟨s, step_of_nil h⟩
  | cons e rest =>
    rw [step_of_cons h]
    exact runEvent_answers e _

/-- A command word that changes the accumulator is an `LDACC` or an `UPDB`, and writes the value of that command. -/
theorem runCommand_writes_acc {w : CmdWord} {s t : State} (h : runCommand w s = .next t) (hne : t.acc ≠ s.acc) :
    (∃ v, w = encode (.ldacc v) ∧ t.acc = v) ∨ ∃ b, w = encode (.updb b) ∧ t.acc = crcStep s.acc b := by
  obtain ⟨i, rfl⟩ | ⟨c, hc⟩ := encode_or_illegal w
  · rw [runCommand_legal (decode_encode i)] at h
    cases i with
    | ldacc v => cases h; exact .inl ⟨v, rfl, rfl⟩
    | updb b => cases h; exact .inr ⟨b, rfl, rfl⟩
    | rdacc => cases h; exact absurd rfl hne
  · rw [runCommand_illegal hc] at h
    cases h
    exact absurd rfl hne

/-- Settles O17, by the event the step takes: none and a pause leave the accumulator, and a command that changes it is one
of the two that write it. -/
theorem onlyLoadUpdateAndResetWriteAcc : Obligations.OnlyLoadUpdateAndResetWriteAcc := by
  intro s t hstep hne
  cases h : s.inbox with
  | nil =>
    rw [step_of_nil h] at hstep
    cases hstep
    exact absurd rfl hne
  | cons e rest =>
    rw [step_of_cons h] at hstep
    cases e with
    | command w =>
      obtain ⟨v, rfl, hv⟩ | ⟨b, rfl, hb⟩ := runCommand_writes_acc hstep hne
      · exact .inl ⟨v, rfl, hv⟩
      · exact .inr (.inl ⟨b, rfl, hb⟩)
    | idle => cases hstep; exact absurd rfl hne
    | reset => exact .inr (.inr rfl)

/-! ### The byte step -/

/-- Settles O11: the low byte leaves eight zero bits, whose rounds are shifts; and the byte step loses nothing of the
accumulator. -/
theorem updbCornerCases : Obligations.UpdbCornerCases := by
  refine ⟨fun a => ?_, by decide, by decide, by decide, by decide, fun a a' b h => (crcStep_bijective b).injective h⟩
  have hlow : ∀ i < 8, (a ^^^ zext32 (a.extractLsb' 0 8)).getLsbD i = false := fun i hi => by simp [hi]
  rw [crcStep_eq_eightRounds, eightRounds_of_low_byte_zero hlow, xor_zext32_ushiftRight]

/-- Settles O35: a zero-extended byte has the byte's bits and no others, and the byte step applies the round to it eight
times. -/
theorem byteMeetsLowBitsThenEightRounds : Obligations.ByteMeetsLowBitsThenEightRounds := by
  refine ⟨fun a b i _ => ?_, fun a b i hi => ?_, fun a b => rfl⟩
  · rw [BitVec.getLsbD_xor, getLsbD_zext32]
  · rw [BitVec.getLsbD_xor, getLsbD_zext32, BitVec.getLsbD_of_ge b i hi, Bool.xor_false]

/-! ### The responses and the accumulator -/

/-- Consistency as two facts: the last response shows `ACC`, and error responses repeat the `DATA` before them. -/
theorem consistent_iff (s : State) : s.consistent = true ↔
    (∀ r, s.responses.getLast? = some r → rspData r = s.acc) ∧ errorsRepeatData s.responses = true := by
  cases h : s.responses.getLast? <;> simp [State.consistent, State.lastResponseShowsAcc, h]

theorem errorsRepeatData_cons_cons (a b : RspWord) (rs : List RspWord) : errorsRepeatData (a :: b :: rs) = true ↔
    (rspErr b = 0#1 ∨ rspData b = rspData a) ∧ errorsRepeatData (b :: rs) = true := by
  simp [errorsRepeatData]

/-- One more response keeps the rule when it is no error, or repeats the `DATA` of the one delivered last. -/
theorem errorsRepeatData_concat {rs : List RspWord} {r : RspWord} (h : errorsRepeatData rs = true)
    (hr : rspErr r = 0#1 ∨ ∀ a, rs.getLast? = some a → rspData r = rspData a) :
    errorsRepeatData (rs ++ [r]) = true := by
  induction rs with
  | nil => rfl
  | cons a rs ih =>
    cases rs with
    | nil => exact (errorsRepeatData_cons_cons a r []).2 ⟨hr.imp_right fun h => h a rfl, rfl⟩
    | cons b rs =>
      obtain ⟨hab, hrest⟩ := (errorsRepeatData_cons_cons a b rs).1 h
      rw [List.getLast?_cons_cons] at hr
      exact (errorsRepeatData_cons_cons a b _).2 ⟨hab, ih hrest hr⟩

/-- A command, legal or not, keeps the responses consistent: its response shows the new accumulator, and when it is an error
the accumulator is the old one, which the response before it shows. -/
theorem runCommand_keeps_consistent {w : CmdWord} {s t : State} (hs : s.consistent = true)
    (h : runCommand w s = .next t) : t.consistent = true := by
  obtain ⟨hlast, herrors⟩ := (consistent_iff s).1 hs
  obtain ⟨e, a, hrun, hcase⟩ := runCommand_cases w s
  cases hrun.symm.trans h
  refine (consistent_iff _).2 ⟨fun r hr => ?_, errorsRepeatData_concat herrors ?_⟩
  · rw [List.getLast?_concat, Option.some.injEq] at hr
    rw [← hr, rspData_rspWord]
  · obtain ⟨-, rfl⟩ | ⟨-, -, rfl⟩ := hcase
    · exact .inl (rspErr_rspWord _ _)
    · exact .inr fun r hr => by rw [rspData_rspWord, hlast r hr]

/-- Every event keeps the responses consistent; a reset empties them. -/
theorem runEvent_keeps_consistent {e : HostEvent} {s t : State} (hs : s.consistent = true)
    (h : runEvent e s = .next t) : t.consistent = true := by
  cases e with
  | command w => exact runCommand_keeps_consistent hs h
  | idle => cases h; exact hs
  | reset => cases h; rfl

/-- Settles O25: a step is an event of the host, or nothing, and consistency does not speak of the host's list. -/
theorem stepKeepsConsistency : Obligations.StepKeepsConsistency := by
  intro s t hs hstep
  cases h : s.inbox with
  | nil =>
    rw [step_of_nil h] at hstep
    cases hstep
    exact hs
  | cons e rest =>
    rw [step_of_cons h] at hstep
    exact runEvent_keeps_consistent (s := s.withInbox rest) hs hstep

/-- Settles O24: after reset there is no response. -/
theorem resetIsConsistent : Obligations.ResetIsConsistent := fun _ => rfl

/-- Settles O23: the state after reset, written out. -/
theorem resetState : Obligations.ResetState := rfl

end Sys2Proof.Machine
end

section
/-! SUPPORT and PROOF. Runs of command words and of events (20_memory.md R47, R49; 60_exceptions.md R135, R136): what follows
from the recurrence for reads, resets, illegal words and pauses. -/

namespace Sys2Proof

theorem isLegal_encode (i : Instr) : isLegal (encode i) = true := by
  simp [isLegal]

/-- A word that is not legal is refused by the decoder. -/
theorem exists_decode_error_of_not_isLegal {w : CmdWord} (h : isLegal w = false) : ∃ c, decode w = .error c := by
  obtain ⟨i, rfl⟩ | hc := encode_or_illegal w
  · rw [isLegal_encode] at h
    cases h
  · exact hc

namespace Machine

/-! ### The recurrence on illegal words -/

/-- The last line of the spec's step function: an illegal word shows the accumulator and leaves it (60_exceptions.md R131). -/
theorem refStep_illegal {w : CmdWord} (h : isLegal w = false) (a : Word) : refStep a w = (a, rspWord 1#1 a) := by
  obtain ⟨hload, hupdate, hread⟩ := (no_row_iff w).1 ((exists_decode_error_iff w).1 (exists_decode_error_of_not_isLegal h))
  rw [refStep, if_neg hload, if_neg hupdate, if_neg hread]

/-- A response has `ERR` = 0 exactly when it answers a legal word (30_encoding.md R69). -/
theorem rspErr_refStep_beq_zero (a : Word) (w : CmdWord) : (rspErr (refStep a w).2 == 0#1) = isLegal w := by
  cases h : isLegal w with
  | false => rw [refStep_illegal h, rspErr_rspWord]; rfl
  | true =>
    obtain ⟨i, rfl⟩ | ⟨c, hc⟩ := encode_or_illegal w
    · rw [rspErr_refStep_encode]; rfl
    · simp [isLegal, hc] at h

/-- Words that each leave the accumulator, with the same response, do so one after the other. -/
theorem refRun_of_forall_refStep {a : Word} {r : RspWord} {cs : List CmdWord} (h : ∀ w ∈ cs, refStep a w = (a, r)) :
    refRun a cs = (a, List.replicate cs.length r) := by
  induction cs with
  | nil => rfl
  | cons c cs ih =>
    obtain ⟨hc, hcs⟩ := List.forall_mem_cons.1 h
    rw [refRun_cons, hc, ih hcs]
    rfl

/-- Any number of reads shows the accumulator that often and leaves it (40_accumulator_access.md R81). -/
theorem refRun_replicate_rdacc (a : Word) (n : Nat) :
    refRun a (List.replicate n (encode .rdacc)) = (a, List.replicate n (rspWord 0#1 a)) := by
  rw [refRun_of_forall_refStep fun w hw => List.eq_of_mem_replicate hw ▸ refStep_rdacc a, List.length_replicate]

/-- The recurrence without the illegal words ends with the same accumulator, and has the responses with `ERR` = 0 alone
(60_exceptions.md R135). -/
theorem refRun_filter_isLegal (a : Word) (cs : List CmdWord) :
    refRun a (cs.filter isLegal) = ((refRun a cs).1, (refRun a cs).2.filter fun r => rspErr r == 0#1) := by
  induction cs generalizing a with
  | nil => rfl
  | cons c cs ih =>
    have herr := rspErr_refStep_beq_zero a c
    cases h : isLegal c with
    | false => simp [refStep_illegal h, h, ih]
    | true =>
      rw [h] at herr
      simp [h, ih, herr]

/-- Every response of the recurrence has `ERR` = 0 exactly when every word is legal (60_exceptions.md section 8). -/
theorem refRun_all_rspErr_zero (a : Word) (cs : List CmdWord) :
    ((refRun a cs).2.all fun r => rspErr r == 0#1) = cs.all isLegal := by
  induction cs generalizing a with
  | nil => rfl
  | cons c cs ih => rw [refRun_cons, List.all_cons, List.all_cons, rspErr_refStep_beq_zero, ih]

/-! ### Runs of command words -/

/-- Settles O27: both runs are the recurrence from the one accumulator. -/
theorem onlyAccIsObservable : Obligations.OnlyAccIsObservable := by
  intro s t cs hacc
  refine ⟨_, _, (refRun s.acc cs).2, runIsTheRecurrence cs s, runIsTheRecurrence cs t, ?_, rfl, ?_⟩
  · rw [hacc]
  · rw [hacc]

/-- Any number of `RDACC` from any state (20_memory.md R47). -/
theorem runCommands_replicate_rdacc (n : Nat) (s : State) : runCommands (List.replicate n (encode .rdacc)) s =
    .next { s with responses := s.responses ++ List.replicate n (rspWord 0#1 s.acc) } := by
  rw [runIsTheRecurrence, refRun_replicate_rdacc]

theorem encode_updb_zero : encode (.updb 0x00#8) = 0x200000000#36 := by decide

/-- The accumulator after `UPDB 0x00` once and twice, from all ones (20_memory.md R47). -/
theorem crcStep_allOnes_zero_once_and_twice : crcStep 0xFFFFFFFF#32 0x00#8 = 0x2DFD1072#32 ∧
    crcStep 0x2DFD1072#32 0x00#8 = 0xBE26ED00#32 := by decide

/-- Settles O30: the recurrence on reads, on one and two loads, on one and two updates by zero, and on an illegal word. -/
theorem sideEffectsAndIdempotency : Obligations.SideEffectsAndIdempotency := by
  refine ⟨runCommands_replicate_rdacc, fun v s => ?_, fun s hs => ?_, fun w s hw => ?_⟩
  · refine ⟨_, _, runIsTheRecurrence _ s, runIsTheRecurrence _ s, ?_⟩
    simp
  · obtain ⟨honce, htwice⟩ := crcStep_allOnes_zero_once_and_twice
    refine ⟨_, _, runIsTheRecurrence _ s, runIsTheRecurrence _ s, ?_, ?_⟩
    · simp [← encode_updb_zero, hs, honce]
    · simp [← encode_updb_zero, hs, honce, htwice]
  · refine ⟨_, runCommand_eq_refStep w s, ?_⟩
    rw [refStep_illegal hw]

/-- Settles O31: each word of the list leaves the accumulator and is answered `{1, ACC}`. -/
theorem illegalWordsInARow : Obligations.IllegalWordsInARow := by
  intro cs s hcs
  rw [runIsTheRecurrence, refRun_of_forall_refStep fun w hw => refStep_illegal (hcs w hw) s.acc]

/-- Settles O32: the recurrence without the illegal words has the same accumulator and the same `ERR` = 0 responses. -/
theorem illegalWordsLeaveNoTrace : Obligations.IllegalWordsLeaveNoTrace := by
  intro cs s
  refine ⟨_, _, runIsTheRecurrence cs s, runIsTheRecurrence _ s, ?_, ?_⟩
  · rw [refRun_filter_isLegal]
  · rw [refRun_filter_isLegal]
    simp [List.filter_append, List.filter_filter]

/-- Settles O33: the responses the run adds all have `ERR` = 0 exactly when its words are legal. -/
theorem cleanRunsHaveOnlyLegalWords : Obligations.CleanRunsHaveOnlyLegalWords := by
  intro cs s hs
  rw [State.clean] at hs
  refine ⟨_, runIsTheRecurrence cs s, ?_⟩
  rw [State.clean, List.all_append, hs, Bool.true_and, refRun_all_rspErr_zero, List.all_eq_true]

/-! ### Runs from a reset -/

/-- A reset event and then command words: the run of the words from the state the reset leaves. -/
theorem runEvents_reset_cons (cs : List CmdWord) (s : State) :
    runEvents (.reset :: cs.map .command) s = runCommands cs s.resetEvent :=
  runEvents_cons rfl _

/-- Settles O21: reads leave the accumulator, whatever value the reset gave it. -/
theorem accResetIsOneValue : Obligations.AccResetIsOneValue := by
  refine ⟨fun unit n => runCommands_replicate_rdacc n (State.resetOf unit), fun s n => ⟨s.resetEvent.acc, ?_⟩⟩
  rw [← List.map_replicate, runEvents_reset_cons, runCommands_replicate_rdacc]
  rfl

/-- Settles O22: after the load the recurrence has forgotten the value of the reset, as it has any other. -/
theorem loadAfterResetForgetsAccReset : Obligations.LoadAfterResetForgetsAccReset := by
  intro s t v cs
  refine ⟨_, _, rspWord 0#1 v :: (refRun v cs).2,
    (runEvents_reset_cons (encode (.ldacc v) :: cs) s).trans (runIsTheRecurrence _ _), runIsTheRecurrence _ t, ?_, ?_, ?_⟩
  · simp only [refRun_ldacc_cons]
  · simp only [refRun_ldacc_cons, State.resetEvent_responses, List.nil_append]
  · simp only [refRun_ldacc_cons]

/-! ### Byte streams -/

/-- Settles O42: the update by two sequences in order is the update by both. -/
theorem chunkingInvariant : Obligations.ChunkingInvariant := fun a S1 S2 => (crcUpdate_append a S1 S2).symm

/-- Settles O45: four evaluations of the update. -/
theorem knownCrcValues : Obligations.KnownCrcValues := by
  unfold Obligations.KnownCrcValues
  decide +kernel

/-- The byte of an event, if it is an `UPDB`, comes before those of the later events. -/
theorem bytesSent_cons (e : HostEvent) (es : List HostEvent) : bytesSent (e :: es) = bytesSent [e] ++ bytesSent es := by
  cases e with
  | command w =>
    obtain ⟨i, rfl⟩ | ⟨c, hc⟩ := encode_or_illegal w
    · cases i <;> simp [bytesSent]
    · simp [bytesSent, hc]
  | idle => rfl
  | reset => rfl

/-- An event that is no reset and no load folds the byte it sends, if any, into the accumulator. -/
theorem runEvent_folds_bytesSent {e : HostEvent} {s t : State} (hreset : e ≠ .reset)
    (hload : ∀ v, e ≠ .command (encode (.ldacc v))) (h : runEvent e s = .next t) :
    t.acc = crcUpdate s.acc (bytesSent [e]) := by
  cases e with
  | command w =>
    obtain ⟨i, rfl⟩ | ⟨c, hc⟩ := encode_or_illegal w
    · have hrun := (runCommand_legal (decode_encode i) s).symm.trans h
      cases i with
      | ldacc v => exact absurd rfl (hload v)
      | updb b => cases hrun; simp [bytesSent]
      | rdacc => cases hrun; simp [bytesSent]
    · cases (runCommand_illegal hc s).symm.trans h
      simp [bytesSent, hc]
  | idle => cases h; rfl
  | reset => exact absurd rfl hreset

/-- Settles O44, by induction on the host's events: each folds the byte it sends, if it sends one. -/
theorem streamSurvivesPausesReadsAndErrors : Obligations.StreamSurvivesPausesReadsAndErrors := by
  intro evs
  induction evs with
  | nil => exact fun s _ _ => ⟨s, rfl, rfl⟩
  | cons e es ih =>
    intro s hreset hload
    obtain ⟨u, hu⟩ := runEvent_answers e s
    obtain ⟨t, ht, hacc⟩ := ih u (fun h => hreset (.tail e h)) fun v h => hload v (.tail e h)
    have hfold := runEvent_folds_bytesSent (fun h => hreset (h ▸ .head es)) (fun v h => hload v (h ▸ .head es)) hu
    refine ⟨t, (runEvents_cons hu es).trans ht, ?_⟩
    rw [hacc, hfold, bytesSent_cons e es, crcUpdate_append]

/-! ### Two streams on one engine -/

/-- What a host that keeps two streams should have saved after a turn: the stream's value updated by the turn's bytes, and
the other value as it was (42_host_convention.md R125). -/
def SavedStreams.updated (v : SavedStreams) (toA : Bool) (bytes : List Byte) : SavedStreams :=
  if toA then { v with vA := crcUpdate v.vA bytes } else { v with vB := crcUpdate v.vB bytes }

/-- The last `DATA` a turn's commands give is the update of the restored value, whatever the engine held. -/
theorem lastData_of_turn (value : Word) (bytes : List Byte) (s : State) : ∃ t,
    runCommands (restoreCmds value ++ updateCmds bytes ++ readCmds) s = .next t ∧
      t.lastData = some (crcUpdate value bytes) := by
  have hrun := runIsTheRecurrence (restoreCmds value ++ updateCmds bytes ++ readCmds) s
  refine ⟨_, hrun, ?_⟩
  rw [lastData_of_runCommands (List.cons_ne_nil _ _) hrun, refRun_restoreCmds_updateCmds_readCmds]

/-- One turn saves the update of the stream's value. -/
theorem hostTurn_saves_update (toA : Bool) (bytes : List Byte) (v : SavedStreams) (s : State) :
    ∃ t, hostTurn toA bytes v s = .next (v.updated toA bytes, t) := by
  obtain ⟨t, hrun, hdata⟩ := lastData_of_turn (if toA then v.vA else v.vB) bytes s
  refine ⟨t, ?_⟩
  rw [hostTurn, hrun]
  simp only [hdata]
  cases toA <;> rfl

/-- A turn for a stream puts its bytes before those of the stream's later turns, and gives the other stream none. -/
theorem bytesOf_cons (toA toA' : Bool) (bytes : List Byte) (turns : List (Bool × List Byte)) :
    bytesOf toA ((toA', bytes) :: turns) = (if toA' = toA then bytes else []) ++ bytesOf toA turns := by
  by_cases h : toA' = toA <;> simp [bytesOf, h]

/-- Settles O48, by induction on the turns: each updates the saved value of its own stream. -/
theorem twoStreamsDoNotMix : Obligations.TwoStreamsDoNotMix := by
  intro turns
  induction turns with
  | nil => exact fun v s => ⟨v, s, rfl, rfl, rfl⟩
  | cons turn turns ih =>
    obtain ⟨toA, bytes⟩ := turn
    intro v s
    obtain ⟨u, hu⟩ := hostTurn_saves_update toA bytes v s
    obtain ⟨v', t, hrest, hA, hB⟩ := ih (v.updated toA bytes) u
    refine ⟨v', t, by rw [hostTurns, hu]; exact hrest, ?_, ?_⟩
    · rw [hA, bytesOf_cons, crcUpdate_append]
      cases toA <;> rfl
    · rw [hB, bytesOf_cons, crcUpdate_append]
      cases toA <;> rfl

end Machine

end Sys2Proof
end

section
/-! SUPPORT and PROOF. The ports (10_state.md R27, R28, R30; 70_reset_and_hazards.md R150, R156): a clock cycle without reset
answers one command or none, the words accepted are those answered and the one in progress, and no wait goes on for good. -/

namespace Sys2Proof.Machine

/-! ### One cycle -/

/-- The ports after a cycle that leaves the engine in `t`. -/
def PortState.advance (p : PortState) (i : PortIn) (t : State) : PortState :=
  ⟨t, p.nextInProgress i, p.nextWait i, p.cycleNo + 1⟩

@[simp] theorem PortState.advance_engine (p : PortState) (i : PortIn) (t : State) : (p.advance i t).engine = t := rfl
@[simp] theorem PortState.advance_inProgress (p : PortState) (i : PortIn) (t : State) :
    (p.advance i t).inProgress = p.nextInProgress i := rfl
@[simp] theorem PortState.advance_wait (p : PortState) (i : PortIn) (t : State) : (p.advance i t).wait = p.nextWait i := rfl

/-- Everything a cycle can do: its event of the transaction level, with the ports moved on. -/
theorem cycle_cases {p q : PortState} {i : PortIn} {o : PortOut} (h : cycle p i = .next (q, o)) :
    ∃ t, runEvent (p.event i) p.engine = .next t ∧ q = p.advance i t ∧ o = p.outputs i t := by
  obtain ⟨t, ht⟩ := runEvent_answers (p.event i) p.engine
  cases (cycle_of_event ht).symm.trans h
  exact ⟨t, ht, rfl, rfl⟩

/-- The wires of a cycle without reset that answers a command: the response delivered last is on `rsp`. -/
theorem outputs_of_answer {p : PortState} {i : PortIn} {w : CmdWord} (hr : i.rst = false) (h : p.answers i = some w)
    (t : State) : p.outputs i t =
      ⟨p.ready, true, t.responses.getLastD (Config.rspWhileInvalid p.engine.unitNo p.cycleNo)⟩ := by
  simp [PortState.outputs, PortState.cmdReady, hr, h]

/-- The wires of a cycle without reset that answers nothing. -/
theorem outputs_of_no_answer {p : PortState} {i : PortIn} (hr : i.rst = false) (h : p.answers i = none) (t : State) :
    p.outputs i t = ⟨p.ready, false, Config.rspWhileInvalid p.engine.unitNo p.cycleNo⟩ := by
  simp [PortState.outputs, PortState.cmdReady, hr, h]

/-- The response a cycle delivers, and the accumulator after it, when it answers `w`: those of the spec's step function. -/
theorem cycle_of_answer {p : PortState} {i : PortIn} {w : CmdWord} (hr : i.rst = false) (h : p.answers i = some w) :
    ∃ t, cycle p i = .next (p.advance i t, ⟨p.ready, true, (refStep p.engine.acc w).2⟩) ∧
      t.acc = (refStep p.engine.acc w).1 := by
  have hrun := (congrArg (runEvent · p.engine) (event_command hr h)).trans (runCommand_eq_refStep w p.engine)
  have hcycle := cycle_of_event hrun
  rw [outputs_of_answer hr h, List.getLastD_concat] at hcycle
  exact ⟨_, hcycle, rfl⟩

/-- A cycle without reset that answers nothing leaves the engine, and delivers no response. -/
theorem cycle_of_no_answer {p : PortState} {i : PortIn} (hr : i.rst = false) (h : p.answers i = none) :
    ∃ r, cycle p i = .next (p.advance i p.engine, ⟨p.ready, false, r⟩) := by
  have hcycle := cycle_of_event (congrArg (runEvent · p.engine) (event_idle hr h))
  rw [outputs_of_no_answer hr h] at hcycle
  exact ⟨_, hcycle⟩

/-- Settles O49: the two things a cycle without reset can do. -/
theorem cycleDeliversTheSpecResponse : Obligations.CycleDeliversTheSpecResponse := by
  intro p i hr
  cases h : p.answers i with
  | none =>
    obtain ⟨r, hc⟩ := cycle_of_no_answer hr h
    exact ⟨_, _, hc, by simp, by simp, fun _ => rfl⟩
  | some w =>
    obtain ⟨t, hc, hacc⟩ := cycle_of_answer hr h
    refine ⟨_, _, hc, by simp, fun w' hw => ?_, by simp⟩
    cases hw
    exact ⟨rfl, hacc⟩

/-- Settles O51: the event of the cycle is the reset, which draws the accumulator, and the ports drop what was in
progress. -/
theorem resetCycleAbandonsTheCommand : Obligations.ResetCycleAbandonsTheCommand := by
  intro p i hr
  have hrun : runEvent (p.event i) p.engine = .next p.engine.resetEvent := by rw [event_reset hr]; rfl
  refine ⟨?_, _, _, cycle_of_event hrun, ?_, ?_, rfl⟩
  · simp [PortState.accepts, hr]
  · simp [PortState.outputs, hr]
  · simp [PortState.nextInProgress, hr]

/-! ### The words accepted and the words answered -/

/-- The word in progress, if there is one. -/
def PortState.pending (p : PortState) : List CmdWord := (p.inProgress.map InProgress.word).toList

/-- The word a cycle accepts, if it accepts one. -/
def PortState.acceptedIn (p : PortState) (i : PortIn) : List CmdWord := if p.accepts i then [i.cmd] else []

/-- While a command has cycles left, nothing is accepted and nothing answered, and one cycle less is left (10_state.md
R28). -/
theorem cycle_while_left {p : PortState} {w : CmdWord} {k : Nat} (h : p.inProgress = some ⟨w, k + 1⟩) (i : PortIn) :
    p.ready = false ∧ p.answers i = none ∧ (i.rst = false → p.nextInProgress i = some ⟨w, k⟩) := by
  refine ⟨?_, ?_, fun hr => ?_⟩
  · simp [PortState.ready, h]
  · simp [PortState.answers, h]
  · simp [PortState.nextInProgress, h, hr]

/-- A command with no cycle left is answered. -/
theorem answers_of_none_left {p : PortState} {w : CmdWord} (h : p.inProgress = some ⟨w, 0⟩) (i : PortIn) :
    p.answers i = some w := by
  simp [PortState.answers, h]

/-- No word is lost or added: the word in progress and the one accepted are the one answered and the one in progress
afterwards, in this order (10_state.md R28). -/
theorem pending_append_acceptedIn (p : PortState) {i : PortIn} (hr : i.rst = false) (t : State) :
    p.pending ++ p.acceptedIn i = (p.answers i).toList ++ (p.advance i t).pending := by
  rw [PortState.pending, PortState.pending, PortState.advance_inProgress, PortState.acceptedIn]
  match h : p.inProgress with
  | some ⟨w, k + 1⟩ =>
    obtain ⟨hready, hanswers, hnext⟩ := cycle_while_left h i
    simp [PortState.accepts, hready, hanswers, hnext hr]
  | some ⟨w, 0⟩ =>
    rw [answers_of_none_left h]
    by_cases ha : p.accepts i = true <;> simp [PortState.nextInProgress, h, hr, ha]
  | none =>
    by_cases ha : p.accepts i = true
    · by_cases hl : p.latency i.cmd = 0 <;> simp [PortState.nextInProgress, PortState.answers, h, hr, ha, hl]
    · simp [PortState.nextInProgress, PortState.answers, h, hr, ha]

/-- The words accepted in a trace, one cycle at a time. -/
theorem acceptedWords_cons {p : PortState} {i : PortIn} {o : PortOut} (ho : o.cmdReady = p.ready)
    (is : List PortIn) (os : List PortOut) :
    acceptedWords (i :: is) (o :: os) = p.acceptedIn i ++ acceptedWords is os := by
  have haccepts : (!i.rst && i.cmdValid && o.cmdReady) = p.accepts i := by rw [ho, PortState.accepts]
  simp only [acceptedWords, List.zip_cons_cons, List.filterMap_cons, haccepts, PortState.acceptedIn]
  cases p.accepts i <;> rfl

theorem deliveredResponses_cons_valid (ready : Bool) (r : RspWord) (os : List PortOut) :
    deliveredResponses (⟨ready, true, r⟩ :: os) = r :: deliveredResponses os := rfl

theorem deliveredResponses_cons_invalid (ready : Bool) (r : RspWord) (os : List PortOut) :
    deliveredResponses (⟨ready, false, r⟩ :: os) = deliveredResponses os := rfl

/-- The port level refines the recurrence from any start: a word already in progress counts as accepted before the first
cycle. -/
theorem runPorts_refines (ins : List PortIn) (p : PortState) (hr : ∀ i ∈ ins, i.rst = false) :
    ∃ (q : PortState) (outs : List PortOut) (answered : List CmdWord), runPorts ins p = .next (q, outs) ∧
      outs.length = ins.length ∧ p.pending ++ acceptedWords ins outs = answered ++ q.pending ∧
      deliveredResponses outs = (refRun p.engine.acc answered).2 ∧
      q.engine.acc = (refRun p.engine.acc answered).1 := by
  induction ins generalizing p with
  | nil => exact ⟨p, [], [], rfl, rfl, by simp [acceptedWords], rfl, rfl⟩
  | cons i is ih =>
    obtain ⟨hi, his⟩ := List.forall_mem_cons.1 hr
    cases h : p.answers i with
    | none =>
      obtain ⟨r, hc⟩ := cycle_of_no_answer hi h
      obtain ⟨q, os, answered, hrun, hlen, hwords, hrsp, hacc⟩ := ih (p.advance i p.engine) his
      refine ⟨q, _, answered, runPorts_cons hc hrun, congrArg (· + 1) hlen, ?_,
        (deliveredResponses_cons_invalid _ _ _).trans hrsp, hacc⟩
      rw [acceptedWords_cons (p := p) rfl, ← List.append_assoc, pending_append_acceptedIn p hi p.engine, h,
        Option.toList_none, List.nil_append, hwords]
    | some w =>
      obtain ⟨t, hc, ht⟩ := cycle_of_answer hi h
      obtain ⟨q, os, answered, hrun, hlen, hwords, hrsp, hacc⟩ := ih (p.advance i t) his
      rw [PortState.advance_engine, ht] at hrsp hacc
      refine ⟨q, _, w :: answered, runPorts_cons hc hrun, congrArg (· + 1) hlen, ?_, ?_, hacc⟩
      · rw [acceptedWords_cons (p := p) rfl, ← List.append_assoc, pending_append_acceptedIn p hi t, h,
          Option.toList_some, List.singleton_append, List.cons_append, hwords, List.cons_append]
      · rw [deliveredResponses_cons_valid, refRun_cons, hrsp]

/-- Settles O50: the refinement from ports with nothing in progress. -/
theorem portTraceMeetsTheRecurrence : Obligations.PortTraceMeetsTheRecurrence := by
  intro ins p hr hp
  obtain ⟨q, outs, answered, hrun, hlen, hwords, hrsp, hacc⟩ := runPorts_refines ins p hr
  have hpending : p.pending = [] := by rw [PortState.pending, hp]; rfl
  rw [hpending, List.nil_append] at hwords
  exact ⟨q, outs, answered, hrun, hlen, hwords, hrsp, hacc⟩

/-- Settles O52, by induction on the cycles left: each leaves the engine and one cycle less, and with none left the cycle
answers. -/
theorem acceptedCommandIsAnswered : Obligations.AcceptedCommandIsAnswered := by
  intro ins last
  induction ins with
  | nil =>
    intro p w _ hlast hp
    obtain ⟨t, hc, -⟩ := cycle_of_answer hlast (answers_of_none_left hp last)
    exact ⟨_, [], _, runPorts_cons hc rfl, by simp, rfl, rfl⟩
  | cons i is ih =>
    intro p w hr hlast hp
    obtain ⟨hi, his⟩ := List.forall_mem_cons.1 hr
    obtain ⟨hready, hanswers, hnext⟩ := cycle_while_left hp i
    obtain ⟨r, hc⟩ := cycle_of_no_answer hi hanswers
    obtain ⟨q, outs, o, hrun, hsilent, hvalid, hrsp⟩ := ih (p.advance i p.engine) w his hlast (hnext hi)
    exact ⟨q, _ :: outs, o, runPorts_cons hc hrun, List.forall_mem_cons.2 ⟨⟨rfl, hready⟩, hsilent⟩, hvalid, hrsp⟩

/-! ### The bounds -/

theorem readyDelay_le (unit cycleNo : Nat) : readyDelay unit cycleNo ≤ Config.readyBound unit :=
  Nat.min_le_right _ _

theorem latency_le (p : PortState) (w : CmdWord) : p.latency w ≤ Config.latencyBound p.engine.unitNo :=
  Nat.min_le_right _ _

/-- Settles O54: the first wait is drawn within its bound. -/
theorem resetPortsAreBounded : Obligations.ResetPortsAreBounded :=
  ⟨⟨readyDelay_le 0 0, fun _ h => by cases h⟩, rfl⟩

/-- The next wait is drawn within its bound, or no longer than the one before. -/
theorem nextWait_le {p : PortState} (hp : p.bounded) (i : PortIn) :
    p.nextWait i ≤ Config.readyBound p.engine.unitNo := by
  have hdraw := readyDelay_le p.engine.unitNo p.cycleNo
  obtain ⟨hkeep, -⟩ := hp
  rw [PortState.nextWait]
  split
  · exact hdraw
  split
  · exact hkeep
  split
  · exact hdraw
  · omega

/-- A command in progress after a cycle has fewer cycles left than its bound: one less than before, or one less than the
`T_CMD` just drawn. -/
theorem nextInProgress_left_lt {p : PortState} (hp : p.bounded) (i : PortIn) {c : InProgress}
    (h : p.nextInProgress i = some c) : c.left < Config.latencyBound p.engine.unitNo := by
  obtain ⟨-, hleft⟩ := hp
  have hdraw := latency_le p i.cmd
  rw [PortState.nextInProgress] at h
  split at h
  · cases h
  split at h
  next w k hin =>
    have hk := hleft _ hin
    cases h
    exact Nat.lt_of_succ_lt hk
  next w hin =>
    have hpos := hleft _ hin
    split at h
    · cases h
      exact Nat.lt_of_le_of_lt (Nat.sub_le_sub_right hdraw 1) (Nat.sub_lt hpos Nat.one_pos)
    · cases h
  next hin =>
    split at h
    next ha =>
      have hne : p.latency i.cmd ≠ 0 := by simpa using (Bool.and_eq_true_iff.1 ha).2
      cases h
      exact Nat.lt_of_lt_of_le (Nat.sub_lt (Nat.pos_of_ne_zero hne) Nat.one_pos) hdraw
    · cases h

/-- Settles O55: the bounds are those of the engine's number, which no event changes. -/
theorem cycleKeepsTheBounds : Obligations.CycleKeepsTheBounds := by
  intro p q i o hp h
  obtain ⟨t, hrun, rfl, -⟩ := cycle_cases h
  obtain ⟨-, hunit⟩ := runEvent_keeps hrun
  rw [PortState.bounded, PortState.advance_engine, hunit]
  exact ⟨nextWait_le hp i, fun _ => nextInProgress_left_lt hp i⟩

/-! ### A command that is kept on offer -/

/-- How many cycles may pass before `cmd_ready` must be 1: those of the command in progress and its response cycle, and the
wait. -/
def PortState.cyclesToReady (p : PortState) : Nat :=
  match p.inProgress with
  | some c => c.left + 1 + p.wait
  | none => p.wait

theorem cyclesToReady_le {p : PortState} (hp : p.bounded) :
    p.cyclesToReady ≤ Config.latencyBound p.engine.unitNo + Config.readyBound p.engine.unitNo := by
  obtain ⟨hwait, hleft⟩ := hp
  rw [PortState.cyclesToReady]
  split
  next c hc => exact Nat.add_le_add (hleft c hc) hwait
  next => exact Nat.le_add_left_of_le hwait

/-- The wires of a host that offers the word `w`. -/
def offering (w : CmdWord) : PortIn := ⟨false, true, w⟩

theorem accepts_offering (p : PortState) (w : CmdWord) : p.accepts (offering w) = p.ready := rfl

/-- A cycle in which the offered word is not accepted brings the engine one cycle nearer to being ready. -/
theorem cyclesToReady_advance {p : PortState} {w : CmdWord} (h : p.ready = false) (t : State) :
    (p.advance (offering w) t).cyclesToReady + 1 = p.cyclesToReady := by
  have hr : (offering w).rst = false := rfl
  have ha := (accepts_offering p w).trans h
  rw [PortState.cyclesToReady, PortState.cyclesToReady, PortState.advance_inProgress, PortState.advance_wait,
    PortState.nextWait, hr, ha]
  match hp : p.inProgress with
  | some ⟨w', k + 1⟩ =>
    obtain ⟨-, -, hnext⟩ := cycle_while_left hp (offering w)
    rw [hnext hr]
    show k + 1 + p.wait + 1 = k + 1 + 1 + p.wait
    omega
  | some ⟨w', 0⟩ =>
    have hnext : p.nextInProgress (offering w) = none := by simp [PortState.nextInProgress, hr, ha, hp]
    rw [hnext]
    show p.wait + 1 = 0 + 1 + p.wait
    omega
  | none =>
    have hnext : p.nextInProgress (offering w) = none := by simp [PortState.nextInProgress, hr, ha, hp]
    have hwait : p.wait ≠ 0 := fun hzero => by simp [PortState.ready, hp, hzero] at h
    simp only [hnext, Bool.or_self, Bool.false_eq_true, if_false, beq_iff_eq, hwait]
    omega

/-- Every trace is answered to its end. -/
theorem runPorts_answers (is : List PortIn) (p : PortState) : ∃ q os, runPorts is p = .next (q, os) := by
  induction is generalizing p with
  | nil => exact ⟨p, [], rfl⟩
  | cons i is ih =>
    obtain ⟨q, o, hc⟩ := cycle_answers p i
    obtain ⟨q', os, hrun⟩ := ih q
    exact ⟨q', o :: os, runPorts_cons hc hrun⟩

/-- A word offered in more cycles than may pass before the engine is ready is accepted in one of them. -/
theorem offered_word_accepted (w : CmdWord) (n : Nat) (p : PortState) (h : p.cyclesToReady < n) :
    ∃ q outs, runPorts (List.replicate n (offering w)) p = .next (q, outs) ∧
      w ∈ acceptedWords (List.replicate n (offering w)) outs := by
  induction n generalizing p with
  | zero => exact absurd h (Nat.not_lt_zero _)
  | succ n ih =>
    obtain ⟨q, o, hc⟩ := cycle_answers p (offering w)
    obtain ⟨t, -, rfl, rfl⟩ := cycle_cases hc
    rw [List.replicate_succ]
    cases hready : p.ready with
    | true =>
      obtain ⟨q', os, hrun⟩ := runPorts_answers (List.replicate n (offering w)) (p.advance (offering w) t)
      refine ⟨q', _, runPorts_cons hc hrun, ?_⟩
      rw [acceptedWords_cons (p := p) rfl, PortState.acceptedIn, accepts_offering, hready]
      exact List.mem_append_left _ (.head [])
    | false =>
      have hless := cyclesToReady_advance (w := w) hready t
      obtain ⟨q', os, hrun, hmem⟩ := ih (p.advance (offering w) t) (by omega)
      refine ⟨q', _, runPorts_cons hc hrun, ?_⟩
      rw [acceptedWords_cons (p := p) rfl]
      exact List.mem_append_right _ hmem

/-- Settles O53: within the bounds, the cycles until the engine is ready are fewer than those of the offer. -/
theorem offeredCommandIsAccepted : Obligations.OfferedCommandIsAccepted := fun p w hp =>
  offered_word_accepted w _ p (Nat.lt_succ_of_le (cyclesToReady_le hp))

end Sys2Proof.Machine
end

section
/-! SUPPORT and PROOF. Several engines (60_exceptions.md R141, 20_memory.md R52): a step of one leaves the others. -/

namespace Sys2Proof.Machine

/-- A step of engine `k` always answers, gives that engine its step, and leaves every other one. -/
theorem stepAt_cases (k : Nat) (p : Platform) : ∃ q, Platform.stepAt k p = .next q ∧ q.length = p.length ∧
    (∀ j, j ≠ k → q[j]? = p[j]?) ∧ ∀ s, p[k]? = some s → ∃ t, step s = .next t ∧ q[k]? = some t := by
  cases h : p[k]? with
  | none => exact ⟨p, by rw [Platform.stepAt, h], rfl, fun _ _ => rfl, by simp⟩
  | some s =>
    obtain ⟨t, ht⟩ := everyStepAnswers s
    obtain ⟨hk, -⟩ := List.getElem?_eq_some_iff.1 h
    refine ⟨p.set k t, ?_, List.length_set, fun j hj => List.getElem?_set_ne hj.symm, fun s' hs => ?_⟩
    · simp only [Platform.stepAt, h, ht]
    · cases hs
      exact ⟨t, ht, List.getElem?_set_self hk⟩

/-- Settles O56, by induction on the order of steps: each is a step of its own engine and of no other. -/
theorem enginesShareNothing : Obligations.EnginesShareNothing := by
  intro ks
  induction ks with
  | nil => exact fun p => ⟨p, rfl, rfl, fun _ s hs => ⟨s, rfl, hs⟩⟩
  | cons k ks ih =>
    intro p
    obtain ⟨p', hstep, hlen, hothers, hown⟩ := stepAt_cases k p
    obtain ⟨q, hrun, hlen', hrest⟩ := ih p'
    refine ⟨q, by rw [Platform.run, hstep]; exact hrun, hlen'.trans hlen, fun j s hs => ?_⟩
    by_cases hj : j = k
    · subst hj
      obtain ⟨u, hu, hp'⟩ := hown s hs
      obtain ⟨t, ht, hq⟩ := hrest j u hp'
      exact ⟨t, by rw [List.count_cons_self, stepN_succ_of_next hu, ht], hq⟩
    · obtain ⟨t, ht, hq⟩ := hrest j s ((hothers j hj).trans hs)
      exact ⟨t, by rw [List.count_cons_of_ne (Ne.symm hj), ht], hq⟩

end Sys2Proof.Machine
end
